-- ==== Sys2Proof/Word.lean ====
section
/-! DEFINITION. The plain words of the HPH bus block: bytes, durations, line levels (spec 00_scope.md R6, R7; 10_state.md R11).
A time stamp, a value of the counter `now` (R6), is a `Nat`: the spec never lets it wrap, and `TICK` refuses to move `now`
past `2^64 - 1` (log 15). -/
namespace Sys2Proof

/-- A byte, 0..255 (R7). -/
abbrev Byte := BitVec 8

/-- A sequence of bytes, the first on the wire first (R41). -/
abbrev Bytes := List Byte

/-- The duration of a pulse in microseconds, `DUR_W` = 32 bits (R11). -/
abbrev Duration := BitVec 32

/-- A line level: `low = 0 = false`, `high = 1 = true` (R7). -/
abbrev Level := Bool

/-- The low level, 0. -/
abbrev low : Level := false

/-- The high level, 1. -/
abbrev high : Level := true

end Sys2Proof
end

