-- ==== Sys2Proof/Config.lean ====
section
/-! DEFINITION. The configuration record CFG (spec 00_scope.md R4), its default values, and the free values of the spec. -/
namespace Sys2Proof

/-- The configuration record `CFG` of R4. All times are in microseconds. `LONG_BIT_VALUE ∈ {0, 1}` (R5 (h)) is a Bool.
The frame lengths 9 and 12 and the bit order are fixed by R4 and R41 and are no fields. -/
structure Cfg where
  /-- `T_UNIT_US`, one protocol time-unit; the defaults of the durations are multiples of it, and no rule reads it. -/
  tUnit : Nat
  /-- `TOL_US`, half-width of the tolerance band. -/
  tol : Nat
  /-- `START_LO_US`, low half of the start marker. -/
  startLo : Nat
  /-- `START_HI_US`, high half of the start marker. -/
  startHi : Nat
  /-- `BIT_LO_US`, low half of a bit, and the terminator. -/
  bitLo : Nat
  /-- `SHORT_HI_US`, high half of a short bit. -/
  shortHi : Nat
  /-- `LONG_HI_US`, high half of a long bit. -/
  longHi : Nat
  /-- `IDLE_TIMEOUT_US`. -/
  idleTimeout : Nat
  /-- `CONTROLLER_PERIOD_US`, the controller's cadence. -/
  controllerPeriod : Nat
  /-- `REPEAT_COUNT`, OPEN. -/
  repeatCount : Nat
  /-- `MIN_CMD_SPACING_US`, OPEN. -/
  minCmdSpacing : Nat
  /-- `WORST_FRAME_US`. -/
  worstFrame : Nat
  /-- `FRAME_GAP_US`. -/
  frameGap : Nat
  /-- `TXQ_DEPTH`, OPEN. -/
  txqDepth : Nat
  /-- `PQ_DEPTH`, OPEN. -/
  pqDepth : Nat
  /-- `RXQ_DEPTH`, OPEN. -/
  rxqDepth : Nat
  /-- `LONG_BIT_VALUE`: the binary value of a long high half, the controller's polarity (R64). -/
  longBit : Bool
  /-- `PIN_CONFIGURED`, OPEN. -/
  pinConfigured : Bool
  /-- `PASSIVE_AT_RESET`, OPEN. -/
  passiveAtReset : Bool
deriving DecidableEq, Repr

/-- The length class of a frame (R120). -/
inductive LenClass where
  | short
  | long
deriving DecidableEq, Repr, Inhabited

/-- The default configuration of R4. The OPEN parameters have no default in the spec: the values here are DESIGN CHOICE
(log 1), taken from the worked programs of 95_test_vectors.md; statements quantify over the record. -/
def Config.default : Cfg where
  tUnit := 1000
  tol := 600
  startLo := 9000
  startHi := 5000
  bitLo := 1000
  shortHi := 1000
  longHi := 3000
  idleTimeout := 50000
  controllerPeriod := 60000000
  repeatCount := 2
  minCmdSpacing := 1000000
  worstFrame := 499000
  frameGap := 100000
  txqDepth := 2
  pqDepth := 512
  rxqDepth := 4
  longBit := true
  pinConfigured := true
  passiveAtReset := false

/-- FREE VALUE (R31, U1; log 4). The level of the line at the `n`-th draw, while the block drives the line and another
talker drives it low: no source defines it. -/
opaque Config.lineDraw : Nat → Level

/-- FREE VALUE (R120; log 5). `LEN_CLASS(n)` for `n` other than 9 and 12 is undefined. -/
opaque Config.freeLenClass : Nat → LenClass

/-- FREE VALUE (R122; log 6). `CSUM(B)` is stated for lengths 9 and 12 only. -/
opaque Config.freeCsum : Bytes → Byte

/-- FREE VALUE (R72, D46; log 28). The operand an operand byte stands for that is no code of its field: the spec states no
operand encoding. -/
opaque Config.freeCode : Nat → Nat

end Sys2Proof
end

