-- ==== Sys2Proof/Syntax.lean ====
section
/-! DEFINITION. The syntax of the block: pulses, frames, queue entries, and `Instr`, one constructor per row of
spec/opcode_table.json (spec 30_encoding.md R60, R72; 10_state.md R11, R12). -/
namespace Sys2Proof

/-- A captured pulse (R11): the level the line held and for how long. -/
structure Pulse where
  level : Level
  duration : Duration
deriving DecidableEq, Repr

/-- Who sent a frame (R12). -/
inductive Source where
  | unknown
  | heater
  | controller
  | loc
deriving DecidableEq, Repr

/-- A frame (R12). Its length is the number of its bytes. -/
structure RawFrame where
  bytes : Bytes
  source : Source
  capturedAt : Nat
deriving DecidableEq, Repr

/-- The result of the pulse classifier (R94). -/
inductive PulseClass where
  | startLo
  | startHi
  | bitLo
  | bitShort
  | bitLong
  | idle
  | invalid
deriving DecidableEq, Repr

/-- Why a frame in flight has ended (R106). -/
inductive EndCause where
  | timeout
  | restart
deriving DecidableEq, Repr

/-- The three bounded queues (R40). -/
inductive QueueId where
  | pq
  | rxq
  | txq
deriving DecidableEq, Repr

/-- A value and the queue it is an entry of: `PQ` holds pulses (R14), `RXQ` received frames (R27), `TXQ` commands (R26). -/
inductive QueueEntry where
  | pulse (p : Pulse)
  | received (f : RawFrame)
  | command (f : RawFrame)
deriving DecidableEq, Repr

/-- The operations of the block, one constructor per row of spec/opcode_table.json. -/
inductive Instr where
  -- format P: a pulse word, by its class (R63, R94)
  /-- `DEC_IDLE` (R103). -/
  | decIdle (p : Pulse)
  /-- `DEC_BIT_LO` (R100). -/
  | decBitLo (p : Pulse)
  /-- `DEC_START_LO` (R98). -/
  | decStartLo (p : Pulse)
  /-- `DEC_BIT_SHORT` (R101). -/
  | decBitShort (p : Pulse)
  /-- `DEC_BIT_LONG` (R102). -/
  | decBitLong (p : Pulse)
  /-- `DEC_START_HI` (R99). -/
  | decStartHi (p : Pulse)
  /-- `DEC_INVALID` (R110). -/
  | decInvalid (p : Pulse)
  -- format W: a wire symbol of two pulses (R62)
  /-- `START`, the start marker. -/
  | start
  /-- `SHORT`, a short bit. -/
  | short
  /-- `LONG`, a long bit. -/
  | long
  /-- `SPACING`, terminator and gap (R163). -/
  | spacing
  -- formats F12 and F9: a whole frame (R66, R67)
  /-- `F12`, a long frame, byte 0 first. -/
  | f12 (bytes : Bytes)
  /-- `F9`, a short frame, byte 0 first. -/
  | f9 (bytes : Bytes)
  -- format OP (R72): ENV and CAP
  /-- `ENV_LINE(v)` (R82). -/
  | envLine (v : Level)
  /-- `TICK(dt)` (R83). -/
  | tick (dt : Nat)
  /-- `EDGE` (R81). -/
  | edge
  -- queue primitives
  /-- `Q_ENQ`, `enq(Q, v)` (R44); the queue is the one the entry belongs to. -/
  | qEnq (e : QueueEntry)
  /-- `Q_DEQ`, `deq(Q)` (R45); `cancel` is the input `RXQ.cancel` of R49. -/
  | qDeq (q : QueueId) (cancel : Bool)
  /-- `Q_TRYDEQ`, `trydeq(Q)` (R46). -/
  | qTryDeq (q : QueueId)
  /-- `Q_PEEK`, `peek(Q)` (R47). -/
  | qPeek (q : QueueId)
  /-- `Q_FLUSH`, `flush(Q)` (R48). -/
  | qFlush (q : QueueId)
  -- RX
  /-- `RX_PULSE` (R96). -/
  | rxPulse
  /-- `RX_TIMEOUT` (R111). -/
  | rxTimeout
  /-- `PUSH_BIT`, `push_bit(v)` (R104). -/
  | pushBit (v : Bool)
  /-- `COMPLETE`, `complete(cause)` (R106). -/
  | complete (cause : EndCause)
  /-- `NOISE` (R107); `c` is the class of the pulse that caused it. -/
  | noise (c : PulseClass)
  /-- `LEN_CLASS(n)` (R120). -/
  | lenClass (n : Nat)
  /-- `CSUM(B)` (R122). -/
  | csum (bytes : Bytes)
  /-- `VALIDATE` (R125). -/
  | validate
  /-- `FINALIZE(B', src)` (R128). -/
  | finalize (bytes : Bytes) (src : Source)
  /-- `ARB_FRAME_SEEN(f)` (R135); of `f` the rule reads the source only. -/
  | arbFrameSeen (src : Source)
  -- TX
  /-- `TX_SCHED` (R143). -/
  | txSched
  /-- `TX_BEGIN(c)` (R167). -/
  | txBegin (c : RawFrame)
  /-- `TX_SEG` (R169). -/
  | txSeg
  /-- `TX_END` (R171). -/
  | txEnd
  -- HOST
  /-- `HOST_CMD(bytes)` (R180). -/
  | hostCmd (bytes : Bytes)
  /-- `HOST_RX_POP` (R182). -/
  | hostRxPop
  /-- `HOST_RX_WAIT` (R183); `cancel` is the input `RXQ.cancel` of R49. -/
  | hostRxWait (cancel : Bool)
  /-- `HOST_SET_PASSIVE(v)` (R184). -/
  | hostSetPassive (v : Bool)
  /-- `HOST_STATUS` (R185). -/
  | hostStatus
  /-- `HOST_CSUM(bytes)` (R186). -/
  | hostCsum (bytes : Bytes)
  /-- `RESET(CFG)` (R230); `none` stands for the record in force, given again (log 17). -/
  | reset (cfg : Option Cfg)
  -- format LOG (R195, R205)
  /-- `E_NOISE` (R197). -/
  | eNoise (c : PulseClass)
  /-- `E_CHECKSUM` (R198); the cause of the frame's end decides the recovery. -/
  | eChecksum (cause : EndCause)
  /-- `E_LENGTH` (R199); the cause of the frame's end decides the recovery. -/
  | eLength (cause : EndCause)
  /-- `E_OVERFLOW` (R200). -/
  | eOverflow
  /-- `E_STARVED` (R201). -/
  | eStarved
  /-- `E_CONFIG` (R204). -/
  | eConfig
  /-- `E_DOMAIN` (R202). -/
  | eDomain
  /-- `E_QDROP(Q)` (R203). -/
  | eQdrop (q : QueueId)
  /-- `FRAME_OK(source, length)` (R195). -/
  | frameOk (src : Source) (len : Nat)
  /-- `TX_START(frame)` (R195). -/
  | txStart (f : RawFrame)
  /-- `TX_DONE(frame)` (R195). -/
  | txDone (f : RawFrame)
  /-- `CMD_DROPPED(frame, config)` (R195). -/
  | cmdDropped (f : RawFrame)
deriving DecidableEq, Repr

end Sys2Proof
end

