-- ==== Sys2Proof/Machine/Operands.lean ====
section
/-! DEFINITION. The operand forms: configuration constraints, the pulse classifier, wire symbols and pulse trains, the
transmit waveform, and the checksum engine: pure functions that read no state (spec 00_scope.md R5, 30_encoding.md
R61 to R74, 41_decoder.md R94, 42_validator.md R120 to R127, 44_transmitter.md R161 to R172). -/
namespace Sys2Proof.Machine

/-- The greatest value of a 32-bit duration, `2^32 - 1` (R7). -/
def durMax : Nat := 4294967295

/-- The greatest value of the time counter, `2^64 - 1` (R6). -/
def timeMax : Nat := 18446744073709551615

/-- `sat32(n) = min(n, 2^32 - 1)` (R7), as a duration. -/
def sat32 (n : Nat) : Duration := BitVec.ofNat 32 (min n durMax)

/-- The longest possible repetition: 12 bytes, all long bits, with its spacing (R5 (g)). -/
def worstBound (c : Cfg) : Nat :=
  c.startLo + c.startHi + 96 * (c.bitLo + c.longHi) + c.bitLo + c.frameGap

/-- The constraints (a) to (h) of R5; `LONG_BIT_VALUE ∈ {0, 1}` holds by type. Differences are written as sums, so that
no subtraction of naturals is cut off at 0. R5 is followed where R95 (c) takes the windows of one level for "separated by more
than one microsecond", which R5 (b) and (c) do not ask (log 26). -/
def cfgWf (c : Cfg) : Bool :=
  decide (c.tol < c.bitLo) && decide (c.tol < c.shortHi)
  && decide (c.shortHi + c.tol + c.tol < c.longHi) && decide (c.longHi + c.tol + c.tol < c.startHi)
  && decide (c.bitLo + c.tol + c.tol < c.startLo)
  && decide (c.startLo + c.tol < c.idleTimeout) && decide (c.startHi + c.tol < c.idleTimeout)
  && decide (1 ≤ c.repeatCount) && decide (1 ≤ c.pqDepth) && decide (1 ≤ c.rxqDepth) && decide (1 ≤ c.txqDepth)
  && decide (c.idleTimeout ≤ c.frameGap)
  && decide (worstBound c ≤ c.worstFrame)
  && decide (c.idleTimeout ≤ durMax)

/-! ### Pulses -/

/-- `within(d, target)` of R94, a closed interval; its lower end `target - TOL_US ≤ d` is written as a sum. -/
def within (c : Cfg) (d target : Nat) : Bool :=
  decide (target ≤ d + c.tol) && decide (d ≤ target + c.tol)

/-- The classifier of R94, with its order of tests. -/
def classify (c : Cfg) (p : Pulse) : PulseClass :=
  if c.idleTimeout ≤ p.duration.toNat then .idle
  else if p.level = low && within c p.duration.toNat c.bitLo then .bitLo
  else if p.level = low && within c p.duration.toNat c.startLo then .startLo
  else if p.level = high && within c p.duration.toNat c.shortHi then .bitShort
  else if p.level = high && within c p.duration.toNat c.longHi then .bitLong
  else if p.level = high && within c p.duration.toNat c.startHi then .startHi
  else .invalid

/-- The 33-bit pulse word `level ++ duration` of R61, as a number. -/
def pulseWord (p : Pulse) : Nat := (if p.level then 1 else 0) * 4294967296 + p.duration.toNat

/-- The pulse a 33-bit word stands for (R61). -/
def pulseOfWord (n : Nat) : Pulse := ⟨n / 4294967296 == 1, BitVec.ofNat 32 (n % 4294967296)⟩

/-! ### Symbols and trains -/

/-- A low pulse of nominal length `n` (R73). -/
def lowPulse (n : Nat) : Pulse := ⟨low, sat32 n⟩

/-- A high pulse of nominal length `n` (R73). -/
def highPulse (n : Nat) : Pulse := ⟨high, sat32 n⟩

/-- The start marker, `START` of R62 and R74. -/
def startSymbol (c : Cfg) : List Pulse := [lowPulse c.startLo, highPulse c.startHi]

/-- The short bit, `SHORT` of R62 and R74. -/
def shortSymbol (c : Cfg) : List Pulse := [lowPulse c.bitLo, highPulse c.shortHi]

/-- The long bit, `LONG` of R62 and R74. -/
def longSymbol (c : Cfg) : List Pulse := [lowPulse c.bitLo, highPulse c.longHi]

/-- The inter-frame spacing, `TERM GAP` of R62, R163 and R74. -/
def spacingSymbol (c : Cfg) : List Pulse := [lowPulse c.bitLo, highPulse c.frameGap]

/-- A bit in the controller's polarity (R64, R74 `BIT1` and `BIT0`). -/
def bitSymbol (c : Cfg) (v : Bool) : List Pulse := if v = c.longBit then longSymbol c else shortSymbol c

/-- The bits of a byte in the order of the wire, most significant first (R41, R65 (b)). -/
def byteBits (b : Byte) : List Bool :=
  [b.getLsbD 7, b.getLsbD 6, b.getLsbD 5, b.getLsbD 4, b.getLsbD 3, b.getLsbD 2, b.getLsbD 1, b.getLsbD 0]

/-- `BYTE xx` of R74. -/
def byteTrain (c : Cfg) (b : Byte) : List Pulse := (byteBits b).flatMap (bitSymbol c)

/-- `FRAME b0 b1 ... bn` of R74: marker, bytes, terminator and gap. -/
def frameTrain (c : Cfg) (bytes : Bytes) : List Pulse :=
  startSymbol c ++ bytes.flatMap (byteTrain c) ++ spacingSymbol c

/-- The 66-bit word of a wire symbol: the first pulse in bits 65:33, the second in bits 32:0 (spec/opcode_table.json). -/
def symbolWord (ps : List Pulse) : Nat := ps.foldl (fun n p => n * 8589934592 + pulseWord p) 0

/-! ### The transmit waveform -/

/-- `hi_dur(v)` of R161. -/
def hiDur (c : Cfg) (v : Bool) : Nat := if v = c.longBit then c.longHi else c.shortHi

/-- `bit(f, k)` of R162. -/
def frameBit (bytes : Bytes) (k : Nat) : Bool := (bytes.getD (k / 8) 0).getLsbD (7 - k % 8)

/-- `seg(f, j)` of R164: level and duration of segment `j`. -/
def seg (c : Cfg) (bytes : Bytes) (j : Nat) : Level × Nat :=
  if j = 0 then (low, c.startLo)
  else if j = 1 then (high, c.startHi)
  else if j < 2 + 16 * bytes.length then
    if j % 2 = 0 then (low, c.bitLo) else (high, hiDur c (frameBit bytes ((j - 2) / 2)))
  else if j = 2 + 16 * bytes.length then (low, c.bitLo)
  else (high, c.frameGap)

/-- The index of the last segment of a repetition, `16 L + 3` (R164). -/
def lastSeg (bytes : Bytes) : Nat := 16 * bytes.length + 3

/-- `waveform_once(f)` of R164. -/
def waveformOnce (c : Cfg) (bytes : Bytes) : List (Level × Nat) :=
  (List.range (lastSeg bytes + 1)).map (seg c bytes)

/-- `tx_waveform(f, N)` of R164. -/
def txWaveform (c : Cfg) (bytes : Bytes) : Nat → List (Level × Nat)
  | 0 => []
  | n + 1 => waveformOnce c bytes ++ txWaveform c bytes n

/-- `dur_once(f)` of R172: the duration of one repetition, as the sum over its segments. -/
def durOnce (c : Cfg) (bytes : Bytes) : Nat := ((waveformOnce c bytes).map Prod.snd).sum

/-! ### The checksum engine -/

/-- A legal frame length (R12, R42). -/
def legalLen (n : Nat) : Bool := n == 9 || n == 12

/-- `LEN_CLASS(n)` of R120; free where the spec leaves it undefined (log 5). -/
def lenClassOf (n : Nat) : LenClass :=
  if n = 9 then .short else if n = 12 then .long else Config.freeLenClass n

/-- `start(n)` of R121. -/
def sumStart (n : Nat) : Nat := if n = 9 then 1 else 0

/-- The exact sum of the bytes with indices `start(n)` to `n - 2` (R122). -/
def byteSum (bytes : Bytes) : Nat := ((bytes.dropLast.drop (sumStart bytes.length)).map BitVec.toNat).sum

/-- `CSUM(B)` of R122; free where the spec states no result (log 6). -/
def csumOf (bytes : Bytes) : Byte :=
  if legalLen bytes.length then BitVec.ofNat 8 (byteSum bytes % 256) else Config.freeCsum bytes

/-- `valid(B)` of R123: the checksum equals the last byte. -/
def validSum (bytes : Bytes) : Bool := bytes.getLast? == some (csumOf bytes)

/-- `~B` of R124: every byte complemented. -/
def complementBytes (bytes : Bytes) : Bytes := bytes.map (fun b => ~~~b)

/-- The two tries of R125 and the label of R127: the bytes to store and their source, or nothing. -/
def verdict (bytes : Bytes) : Option (Bytes × Source) :=
  if validSum bytes then some (bytes, .controller)
  else if validSum (complementBytes bytes) then some (complementBytes bytes, .heater)
  else none

/-! ### What a queue may hold -/

/-- A received frame as `RXQ` may hold it (R12, R27, R182): legal length, source Heater or Controller, valid checksum.
DESIGN CHOICE (log 22): `captured_at` may have any value. R12 makes it `now` of the step that finalizes the frame, which
`FINALIZE` does; a frame that is an operand of `Q_ENQ` may carry any other, also a later one. -/
def receivedOk (f : RawFrame) : Bool :=
  legalLen f.bytes.length && (f.source == .heater || f.source == .controller) && validSum f.bytes

/-- A command frame as `TXQ` may hold it (R12, R26): legal length, source Local. DESIGN CHOICE (log 22): `captured_at` may
have any value. R12 makes it `now` of the `HOST_CMD` step, which `HOST_CMD` does; a frame that is an operand of `Q_ENQ` or
`TX_BEGIN` may carry any other, also a later one. -/
def commandOk (f : RawFrame) : Bool := legalLen f.bytes.length && f.source == .loc

/-- An entry is of its queue's type (R14, R26, R27). -/
def entryOk : QueueEntry → Bool
  | .pulse _ => true
  | .received f => receivedOk f
  | .command f => commandOk f

end Sys2Proof.Machine
end

