-- ==== Sys2Proof/WellFormed.lean ====
section
/-! DEFINITION. Well-formed instructions: the operand values that the script's encoding can hold (log 8; the number
of `LEN_CLASS` and the length of `FRAME_OK` are one byte there, DESIGN CHOICE), and for the rows of format P the class that selects the row (spec 30_encoding.md R63). -/
namespace Sys2Proof

/-- A time stamp fits 64 bits (R6). -/
def timeFits (t : Nat) : Bool := decide (t ≤ Machine.timeMax)

/-- A byte sequence whose length fits the length byte of the encoding. -/
def bytesFit (bytes : Bytes) : Bool := decide (bytes.length < 256)

/-- A frame operand that the encoding can hold. -/
def frameFits (f : RawFrame) : Bool := bytesFit f.bytes && timeFits f.capturedAt

/-- A queue entry that the encoding can hold. -/
def entryFits : QueueEntry → Bool
  | .pulse _ => true
  | .received f => frameFits f
  | .command f => frameFits f

/-- The sixteen natural numbers of a configuration record, in the order of R4. -/
def cfgFields (c : Cfg) : List Nat :=
  [c.tUnit, c.tol, c.startLo, c.startHi, c.bitLo, c.shortHi, c.longHi, c.idleTimeout, c.controllerPeriod, c.repeatCount,
   c.minCmdSpacing, c.worstFrame, c.frameGap, c.txqDepth, c.pqDepth, c.rxqDepth]

/-- A configuration record whose fields fit 64 bits each. -/
def cfgFits (c : Cfg) : Bool := (cfgFields c).all timeFits

/-- Well-formedness of an instruction under the configuration in force. -/
def Instr.wf (c : Cfg) : Instr → Bool
  | .decIdle p => Machine.classify c p == .idle
  | .decBitLo p => Machine.classify c p == .bitLo
  | .decStartLo p => Machine.classify c p == .startLo
  | .decBitShort p => Machine.classify c p == .bitShort
  | .decBitLong p => Machine.classify c p == .bitLong
  | .decStartHi p => Machine.classify c p == .startHi
  | .decInvalid p => Machine.classify c p == .invalid
  | .start => true
  | .short => true
  | .long => true
  | .spacing => true
  | .f12 bytes => bytes.length == 12
  | .f9 bytes => bytes.length == 9
  | .envLine _ => true
  | .tick dt => decide (1 ≤ dt) && decide (dt ≤ Machine.timeMax + 1)
  | .edge => true
  | .qEnq e => entryFits e
  | .qDeq _ _ => true
  | .qTryDeq _ => true
  | .qPeek _ => true
  | .qFlush _ => true
  | .rxPulse => true
  | .rxTimeout => true
  | .pushBit _ => true
  | .complete _ => true
  | .noise _ => true
  | .lenClass n => decide (n < 256)
  | .csum bytes => bytesFit bytes
  | .validate => true
  | .finalize bytes _ => bytesFit bytes
  | .arbFrameSeen _ => true
  | .txSched => true
  | .txBegin f => frameFits f
  | .txSeg => true
  | .txEnd => true
  | .hostCmd bytes => bytesFit bytes
  | .hostRxPop => true
  | .hostRxWait _ => true
  | .hostSetPassive _ => true
  | .hostStatus => true
  | .hostCsum bytes => bytesFit bytes
  | .reset none => true
  | .reset (some cfg) => cfgFits cfg
  | .eNoise _ => true
  | .eChecksum _ => true
  | .eLength _ => true
  | .eOverflow => true
  | .eStarved => true
  | .eConfig => true
  | .eDomain => true
  | .eQdrop _ => true
  | .frameOk _ len => decide (len < 256)
  | .txStart f => frameFits f
  | .txDone f => frameFits f
  | .cmdDropped f => frameFits f

end Sys2Proof
end

