-- ==== Sys2Proof/Decode.lean ====
section
/-! DEFINITION. The decoder of a script's bytes, total and rejecting by name, and the encoder written from the same tables
(spec 30_encoding.md R61, R62, R66, R67, R72, R73; 60_exceptions.md R205; spec/opcode_table.json). The spec numbers the OP and
LOG rows in 8 bits and gives the other formats their bits; the layout of operands and the lead bytes of the formats other
than OP are the model's (log 8):

* OP row: its script number, then its operands;
* P row: 0x80, then the 33-bit pulse word in 5 bytes, least significant byte first;
* W row: 0x81, then the 66-bit symbol word in 9 bytes, least significant byte first; a word that is no symbol at the nominal
  durations is its two pulses, fed one after the other;
* F9 row: 0x82, then 9 bytes, byte 0 of the frame first;
* F12 row: 0x83, then 12 bytes, byte 0 of the frame first;
* LOG row: 0x84, its event code, then its operands.

The number of `LEN_CLASS` and the length of `FRAME_OK` are one byte, every other number eight (DESIGN CHOICE, log 8).

No operand value stops the decoder: an operand byte that is no code of its field is a free value of the field (log 28). -/
namespace Sys2Proof

/-- Why bytes of a script decode to nothing. -/
inductive DecodeError where
  /-- The bytes end inside an instruction. -/
  | truncated
  /-- No row has this lead byte. -/
  | unknownOp (b : Byte)
  /-- No event has this code. -/
  | unknownEvent (b : Byte)
deriving DecidableEq, Repr

/-- What a parser answers: a value and the bytes after it, or the reason there is none. -/
abbrev Parsed (α : Type) := Except DecodeError (α × Bytes)

/-- Go on with the value and the remaining bytes. -/
def andThen {α β : Type} (r : Parsed α) (k : α → Bytes → Parsed β) : Parsed β :=
  match r with
  | .ok (a, rest) => k a rest
  | .error e => .error e

/-- A value put under a constructor. -/
def parseMap {α β : Type} (f : α → β) (r : Parsed α) : Parsed β := andThen r (fun a rest => .ok (f a, rest))

/-! ### Fields -/

/-- One byte. -/
def takeByte : Bytes → Parsed Byte
  | [] => .error .truncated
  | b :: rest => .ok (b, rest)

/-- A number of `k` bytes, least significant byte first. -/
def takeNat : Nat → Bytes → Parsed Nat
  | 0, rest => .ok (0, rest)
  | k + 1, bs => andThen (takeByte bs) (fun b r => parseMap (fun n => b.toNat + 256 * n) (takeNat k r))

/-- `k` bytes, in order. -/
def takeBytes : Nat → Bytes → Parsed Bytes
  | 0, rest => .ok ([], rest)
  | k + 1, bs => andThen (takeByte bs) (fun b r => parseMap (fun l => b :: l) (takeBytes k r))

/-- The code an operand byte stands for, in a field with `k` codes: its own value, or a free one where it has none
(log 28). -/
def operandCode (k n : Nat) : Nat := if n < k then n else Config.freeCode n % k

/-- A byte that stands for one of the `k` values of a field. -/
def takeCode {α : Type} (k : Nat) (f : Nat → α) (bs : Bytes) : Parsed α :=
  parseMap (fun b => f (operandCode k b.toNat)) (takeByte bs)

/-- A number as `k` bytes, least significant byte first. -/
def natBytes : Nat → Nat → Bytes
  | 0, _ => []
  | k + 1, n => BitVec.ofNat 8 (n % 256) :: natBytes k (n / 256)

/-- The value of a one-bit operand. -/
def boolOfCode : Nat → Bool
  | 0 => false
  | _ => true

/-- The byte of a one-bit operand. -/
def codeOfBool : Bool → Nat
  | false => 0
  | true => 1

/-- The source with this operand code. -/
def sourceOfCode : Nat → Source
  | 0 => .controller
  | 1 => .heater
  | 2 => .loc
  | _ => .unknown

/-- The operand code of a source. -/
def codeOfSource : Source → Nat
  | .controller => 0
  | .heater => 1
  | .loc => 2
  | .unknown => 3

/-- The pulse class with this operand code. -/
def classOfCode : Nat → PulseClass
  | 0 => .startLo
  | 1 => .startHi
  | 2 => .bitLo
  | 3 => .bitShort
  | 4 => .bitLong
  | 5 => .idle
  | _ => .invalid

/-- The operand code of a pulse class. -/
def codeOfClass : PulseClass → Nat
  | .startLo => 0
  | .startHi => 1
  | .bitLo => 2
  | .bitShort => 3
  | .bitLong => 4
  | .idle => 5
  | .invalid => 6

/-- The cause of a frame's end with this operand code. -/
def causeOfCode : Nat → EndCause
  | 0 => .timeout
  | _ => .restart

/-- The operand code of a cause. -/
def codeOfCause : EndCause → Nat
  | .timeout => 0
  | .restart => 1

/-- The queue with this operand code. -/
def queueOfCode : Nat → QueueId
  | 0 => .pq
  | 1 => .rxq
  | _ => .txq

/-- The operand code of a queue. -/
def codeOfQueue : QueueId → Nat
  | .pq => 0
  | .rxq => 1
  | .txq => 2

/-- A one-byte operand. -/
def codeByte (n : Nat) : Bytes := [BitVec.ofNat 8 n]

/-- A pulse as its 33-bit word in five bytes; the seven bits above the word are padding. -/
def takePulse (bs : Bytes) : Parsed Pulse :=
  parseMap (fun n => Machine.pulseOfWord (n % 8589934592)) (takeNat 5 bs)

/-- The five bytes of a pulse. -/
def pulseBytes (p : Pulse) : Bytes := natBytes 5 (Machine.pulseWord p)

/-- The length a length byte stands for: the byte plus 12, modulo 256, so that an operand of zeros is a sequence of the
long frame's length (log 8). -/
def lengthOfCode (n : Nat) : Nat := (n + 12) % 256

/-- The length byte of a length below 256. -/
def codeOfLength (n : Nat) : Nat := (n + 244) % 256

/-- A byte sequence with its length byte in front. -/
def takeBlock (bs : Bytes) : Parsed Bytes := andThen (takeByte bs) (fun n rest => takeBytes (lengthOfCode n.toNat) rest)

/-- A byte sequence with its length byte in front. -/
def blockBytes (bytes : Bytes) : Bytes := BitVec.ofNat 8 (codeOfLength bytes.length) :: bytes

/-- A frame: source, bytes, time stamp. -/
def takeFrame (bs : Bytes) : Parsed RawFrame :=
  andThen (takeCode 4 sourceOfCode bs) (fun src r1 =>
    andThen (takeBlock r1) (fun bytes r2 =>
      parseMap (fun t => ⟨bytes, src, t⟩) (takeNat 8 r2)))

/-- The bytes of a frame operand. -/
def frameBytes (f : RawFrame) : Bytes :=
  codeByte (codeOfSource f.source) ++ blockBytes f.bytes ++ natBytes 8 f.capturedAt

/-- A queue entry: the queue, then the value of its type. -/
def takeEntry (bs : Bytes) : Parsed QueueEntry :=
  andThen (takeCode 3 queueOfCode bs) (fun q rest =>
    match q with
    | .pq => parseMap .pulse (takePulse rest)
    | .rxq => parseMap .received (takeFrame rest)
    | .txq => parseMap .command (takeFrame rest))

/-- The bytes of a queue entry. -/
def entryBytes : QueueEntry → Bytes
  | .pulse p => codeByte (codeOfQueue .pq) ++ pulseBytes p
  | .received f => codeByte (codeOfQueue .rxq) ++ frameBytes f
  | .command f => codeByte (codeOfQueue .txq) ++ frameBytes f

/-- A list of 64-bit numbers. -/
def takeNats : Nat → Bytes → Parsed (List Nat)
  | 0, rest => .ok ([], rest)
  | k + 1, bs => andThen (takeNat 8 bs) (fun n r => parseMap (fun l => n :: l) (takeNats k r))

/-- A configuration record: its sixteen numbers in the order of R4, then `LONG_BIT_VALUE`, `PIN_CONFIGURED`,
`PASSIVE_AT_RESET`. -/
def takeCfg (bs : Bytes) : Parsed Cfg :=
  andThen (takeNats 16 bs) (fun ns r1 =>
    andThen (takeCode 2 boolOfCode r1) (fun lb r2 =>
      andThen (takeCode 2 boolOfCode r2) (fun pin r3 =>
        andThen (takeCode 2 boolOfCode r3) (fun pas r4 =>
          match ns with
          | [a, b, c, d, e, f, g, h, i, j, k, l, m, n, o, p] =>
            .ok (⟨a, b, c, d, e, f, g, h, i, j, k, l, m, n, o, p, lb, pin, pas⟩, r4)
          | _ => .error .truncated))))

/-- The bytes of a configuration record. -/
def cfgBytes (c : Cfg) : Bytes :=
  (cfgFields c).flatMap (natBytes 8) ++ codeByte (codeOfBool c.longBit) ++ codeByte (codeOfBool c.pinConfigured)
    ++ codeByte (codeOfBool c.passiveAtReset)

/-! ### Rows -/

/-- The row a pulse word belongs to: the one of its class (R63, R94). -/
def instrOfPulse (c : Cfg) (p : Pulse) : Instr :=
  match Machine.classify c p with
  | .startLo => .decStartLo p
  | .startHi => .decStartHi p
  | .bitLo => .decBitLo p
  | .bitShort => .decBitShort p
  | .bitLong => .decBitLong p
  | .idle => .decIdle p
  | .invalid => .decInvalid p

/-- The row of a 66-bit word that is a wire symbol of the configuration in force (R62). -/
def instrOfSymbol (c : Cfg) (n : Nat) : Option Instr :=
  if n = Machine.symbolWord (Machine.startSymbol c) then some .start
  else if n = Machine.symbolWord (Machine.shortSymbol c) then some .short
  else if n = Machine.symbolWord (Machine.longSymbol c) then some .long
  else if n = Machine.symbolWord (Machine.spacingSymbol c) then some .spacing
  else none

/-- A pulse fed to the block, as bytes of a script: `Q_ENQ` of it on `PQ`, then `RX_PULSE` (R73). -/
def feedBytes (p : Pulse) : Bytes := 0x10 :: entryBytes (.pulse p) ++ [0x20]

/-- A word of two pulses: the row of its wire symbol, at the nominal durations; any other pair of pulses has no row of its own
and is fed pulse by pulse, each classified by its own window (R62, R63, R73; log 8). -/
def decodePair (c : Cfg) (n : Nat) (rest : Bytes) : Parsed Instr :=
  match instrOfSymbol c n with
  | some i => .ok (i, rest)
  | none =>
    .ok (.qEnq (.pulse (Machine.pulseOfWord (n / 8589934592))),
      0x20 :: feedBytes (Machine.pulseOfWord (n % 8589934592)) ++ rest)

/-- The LOG rows, by event code (R205). -/
def decodeEvent (code : Byte) (bs : Bytes) : Parsed Instr :=
  match code.toNat with
  | 1 => parseMap .eNoise (takeCode 7 classOfCode bs)
  | 2 => parseMap .eChecksum (takeCode 2 causeOfCode bs)
  | 3 => parseMap .eLength (takeCode 2 causeOfCode bs)
  | 4 => .ok (.eOverflow, bs)
  | 5 => .ok (.eStarved, bs)
  | 6 => .ok (.eConfig, bs)
  | 7 => .ok (.eDomain, bs)
  | 8 => parseMap .eQdrop (takeCode 3 queueOfCode bs)
  | 16 => andThen (takeCode 4 sourceOfCode bs) (fun src r => parseMap (fun n => .frameOk src n.toNat) (takeByte r))
  | 17 => parseMap .txStart (takeFrame bs)
  | 18 => parseMap .txDone (takeFrame bs)
  | 19 => parseMap .cmdDropped (takeFrame bs)
  | _ => .error (.unknownEvent code)

/-- `RESET`'s operand: a present flag, then the record. -/
def takeCfgOption (bs : Bytes) : Parsed (Option Cfg) :=
  andThen (takeCode 2 boolOfCode bs) (fun given rest =>
    if given then parseMap some (takeCfg rest) else .ok (none, rest))

/-- A lead byte and what follows it: the script numbers of R72, and the lead bytes of the other formats. -/
def decodeLead (c : Cfg) (lead : Byte) (bs : Bytes) : Parsed Instr :=
  match lead.toNat with
  | 0x00 => parseMap .envLine (takeCode 2 boolOfCode bs)
  | 0x01 => parseMap (fun n => .tick (n + 1)) (takeNat 8 bs)
  | 0x08 => .ok (.edge, bs)
  | 0x10 => parseMap .qEnq (takeEntry bs)
  | 0x11 => andThen (takeCode 3 queueOfCode bs) (fun q r => parseMap (.qDeq q) (takeCode 2 boolOfCode r))
  | 0x12 => parseMap .qTryDeq (takeCode 3 queueOfCode bs)
  | 0x13 => parseMap .qPeek (takeCode 3 queueOfCode bs)
  | 0x14 => parseMap .qFlush (takeCode 3 queueOfCode bs)
  | 0x20 => .ok (.rxPulse, bs)
  | 0x21 => .ok (.rxTimeout, bs)
  | 0x22 => parseMap .pushBit (takeCode 2 boolOfCode bs)
  | 0x23 => parseMap .complete (takeCode 2 causeOfCode bs)
  | 0x24 => parseMap .noise (takeCode 7 classOfCode bs)
  | 0x28 => parseMap (fun n => .lenClass n.toNat) (takeByte bs)
  | 0x29 => parseMap .csum (takeBlock bs)
  | 0x2A => .ok (.validate, bs)
  | 0x2B => andThen (takeCode 4 sourceOfCode bs) (fun src r => parseMap (fun l => .finalize l src) (takeBlock r))
  | 0x2C => parseMap .arbFrameSeen (takeCode 4 sourceOfCode bs)
  | 0x30 => .ok (.txSched, bs)
  | 0x31 => parseMap .txBegin (takeFrame bs)
  | 0x32 => .ok (.txSeg, bs)
  | 0x33 => .ok (.txEnd, bs)
  | 0x40 => parseMap .hostCmd (takeBlock bs)
  | 0x41 => .ok (.hostRxPop, bs)
  | 0x42 => parseMap .hostRxWait (takeCode 2 boolOfCode bs)
  | 0x43 => parseMap .hostSetPassive (takeCode 2 boolOfCode bs)
  | 0x44 => .ok (.hostStatus, bs)
  | 0x45 => parseMap .hostCsum (takeBlock bs)
  | 0x7F => parseMap .reset (takeCfgOption bs)
  | 0x80 => parseMap (instrOfPulse c) (takePulse bs)
  | 0x81 => andThen (takeNat 9 bs) (fun n r => decodePair c (n % 73786976294838206464) r)
  | 0x82 => parseMap .f9 (takeBytes 9 bs)
  | 0x83 => parseMap .f12 (takeBytes 12 bs)
  | 0x84 => andThen (takeByte bs) decodeEvent
  | _ => .error (.unknownOp lead)

/-- The decoder: the instruction at the head of the bytes, and the bytes after it. -/
def decode (c : Cfg) : Bytes → Parsed Instr
  | [] => .error .truncated
  | lead :: bs => decodeLead c lead bs

/-! ### The encoder -/

/-- A wire symbol's nine bytes behind their lead byte. -/
def symbolBytes (ps : List Pulse) : Bytes := 0x81 :: natBytes 9 (Machine.symbolWord ps)

/-- The bytes of an instruction in a script. -/
def encode (c : Cfg) : Instr → Bytes
  | .decIdle p => 0x80 :: pulseBytes p
  | .decBitLo p => 0x80 :: pulseBytes p
  | .decStartLo p => 0x80 :: pulseBytes p
  | .decBitShort p => 0x80 :: pulseBytes p
  | .decBitLong p => 0x80 :: pulseBytes p
  | .decStartHi p => 0x80 :: pulseBytes p
  | .decInvalid p => 0x80 :: pulseBytes p
  | .start => symbolBytes (Machine.startSymbol c)
  | .short => symbolBytes (Machine.shortSymbol c)
  | .long => symbolBytes (Machine.longSymbol c)
  | .spacing => symbolBytes (Machine.spacingSymbol c)
  | .f12 bytes => 0x83 :: bytes
  | .f9 bytes => 0x82 :: bytes
  | .envLine v => 0x00 :: codeByte (codeOfBool v)
  | .tick dt => 0x01 :: natBytes 8 (dt - 1)
  | .edge => [0x08]
  | .qEnq e => 0x10 :: entryBytes e
  | .qDeq q cancel => 0x11 :: (codeByte (codeOfQueue q) ++ codeByte (codeOfBool cancel))
  | .qTryDeq q => 0x12 :: codeByte (codeOfQueue q)
  | .qPeek q => 0x13 :: codeByte (codeOfQueue q)
  | .qFlush q => 0x14 :: codeByte (codeOfQueue q)
  | .rxPulse => [0x20]
  | .rxTimeout => [0x21]
  | .pushBit v => 0x22 :: codeByte (codeOfBool v)
  | .complete cause => 0x23 :: codeByte (codeOfCause cause)
  | .noise k => 0x24 :: codeByte (codeOfClass k)
  | .lenClass n => 0x28 :: codeByte n
  | .csum bytes => 0x29 :: blockBytes bytes
  | .validate => [0x2A]
  | .finalize bytes src => 0x2B :: (codeByte (codeOfSource src) ++ blockBytes bytes)
  | .arbFrameSeen src => 0x2C :: codeByte (codeOfSource src)
  | .txSched => [0x30]
  | .txBegin f => 0x31 :: frameBytes f
  | .txSeg => [0x32]
  | .txEnd => [0x33]
  | .hostCmd bytes => 0x40 :: blockBytes bytes
  | .hostRxPop => [0x41]
  | .hostRxWait cancel => 0x42 :: codeByte (codeOfBool cancel)
  | .hostSetPassive v => 0x43 :: codeByte (codeOfBool v)
  | .hostStatus => [0x44]
  | .hostCsum bytes => 0x45 :: blockBytes bytes
  | .reset none => 0x7F :: codeByte (codeOfBool false)
  | .reset (some cfg) => 0x7F :: (codeByte (codeOfBool true) ++ cfgBytes cfg)
  | .eNoise k => 0x84 :: 0x01 :: codeByte (codeOfClass k)
  | .eChecksum cause => 0x84 :: 0x02 :: codeByte (codeOfCause cause)
  | .eLength cause => 0x84 :: 0x03 :: codeByte (codeOfCause cause)
  | .eOverflow => [0x84, 0x04]
  | .eStarved => [0x84, 0x05]
  | .eConfig => [0x84, 0x06]
  | .eDomain => [0x84, 0x07]
  | .eQdrop q => 0x84 :: 0x08 :: codeByte (codeOfQueue q)
  | .frameOk src len => 0x84 :: 0x10 :: (codeByte (codeOfSource src) ++ codeByte len)
  | .txStart f => 0x84 :: 0x11 :: frameBytes f
  | .txDone f => 0x84 :: 0x12 :: frameBytes f
  | .cmdDropped f => 0x84 :: 0x13 :: frameBytes f

/-! ### Words of the opcode table -/

/-- The script numbers of the OP rows (R72). -/
def opNumbers : List Nat :=
  [0x00, 0x01, 0x08, 0x10, 0x11, 0x12, 0x13, 0x14, 0x20, 0x21, 0x22, 0x23, 0x24, 0x28, 0x29, 0x2A, 0x2B, 0x2C,
   0x30, 0x31, 0x32, 0x33, 0x40, 0x41, 0x42, 0x43, 0x44, 0x45, 0x7F]

/-- The bytes of a word of the opcode table as a script holds them, by the row's width: 8 bits for OP and LOG rows, 33 for
P, 66 for W, 72 for F9 and 96 for F12, in whole bytes. A byte that is both a script number and an event code is the OP row
(log 9); nine bytes that are a wire symbol at the default configuration are that symbol. -/
def tableWordBytes (nbits w : Nat) : Bytes :=
  if nbits ≤ 8 then (if w ∈ opNumbers then codeByte w else 0x84 :: codeByte w)
  else if nbits ≤ 40 then 0x80 :: natBytes 5 w
  else if nbits ≤ 72 then
    if (instrOfSymbol Config.default w).isSome || decide (nbits < 72) then 0x81 :: natBytes 9 w
    else 0x82 :: (natBytes 9 w).reverse
  else 0x83 :: (natBytes 12 w).reverse

/-- The bits above the table's word, all 0, up to the longest instruction. -/
def operandZeros : Bytes := List.replicate 300 0

/-- The instruction the decoder reads from a word of the opcode table, every operand bit above it 0. -/
def decodeTableWord (nbits w : Nat) : Option Instr :=
  match decode Config.default (tableWordBytes nbits w ++ operandZeros) with
  | .ok (i, _) => some i
  | .error _ => none

/-- The exact bytes of that instruction: the word, and for an OP or LOG row as many zero operand bytes as the decoder reads. -/
def tableWordInstrBytes (c : Cfg) (nbits w : Nat) : Bytes :=
  if 8 < nbits then tableWordBytes nbits w else
  match decode c (tableWordBytes nbits w ++ operandZeros) with
  | .ok (_, rest) => (tableWordBytes nbits w ++ operandZeros).take ((tableWordBytes nbits w ++ operandZeros).length - rest.length)
  | .error _ => tableWordBytes nbits w ++ operandZeros

end Sys2Proof
end

