-- ==== Sys2Proof/Machine/State.lean ====
section
/-! DEFINITION. The state of the block as plain data (spec 10_state.md R10 to R36), the reasons a step can stop, and the
state after reset. -/
namespace Sys2Proof.Machine

/-- No fault exists: "There is no trap, no halt and no fatal error" (R8). The errors of 60_exceptions.md are next states;
what the spec refuses is a `Refusal`. Nobody raises a fault, which is safe. -/
inductive Fault where
deriving DecidableEq, Repr

/-- The reasons a step has no meaning. -/
inductive Refusal where
  /-- Raised by `exec` alone, for a row without a meaning; safe. No row is left without one. -/
  | notModelled (mnemonic : String)
  /-- Raised by `RESET` with a configuration that R5 does not allow (R230, U3); safe. -/
  | illFormedConfig
  /-- Raised by `HOST_CMD` and `HOST_CSUM` for a length other than 9 and 12 (R180, R186, U4); safe. -/
  | frameLength (n : Nat)
  /-- Raised by `TICK` when `now` would pass `2^64 - 1` (R6, U2); safe. -/
  | timeBeyondRange
  /-- Raised by `Q_ENQ` with a value that is not of the queue's type (R14, R26, R27, R43; log 22); safe. -/
  | notOfQueueType
  /-- Raised by `step` when the script's next bytes are no instruction: no row has that lead byte or event code, or the
  script ends inside an instruction (log 8). No operand value raises it (log 28); safe. -/
  | undecodable (e : DecodeError)
deriving DecidableEq, Repr

/-! ### The registers -/

/-- Pulse capture (R13). -/
structure Cap where
  /-- `CAP.last_level`. -/
  lastLevel : Level
  /-- `CAP.last_edge`. -/
  lastEdge : Nat
deriving DecidableEq, Repr

/-- `DEC.state` (R16). -/
inductive DecState where
  | idle
  | started
  | complete
deriving DecidableEq, Repr

/-- `DEC.phase` (R16). -/
inductive Phase where
  | phNone
  | phStartLow
  | phBitLow
deriving DecidableEq, Repr

/-- The bytes of the frame buffer that differ from what an unlisted index reads as, by rising index. -/
abbrev Memory := List Host.Cell

/-- The decoder (R15, R16). -/
structure Dec where
  /-- `DEC.buf[0..11]`. -/
  buf : Memory
  /-- `DEC.nbytes`. -/
  nbytes : Nat
  /-- `DEC.cur`. -/
  cur : Byte
  /-- `DEC.nbits`. -/
  nbits : Nat
  /-- `DEC.state`. -/
  state : DecState
  /-- `DEC.phase`. -/
  phase : Phase
deriving DecidableEq, Repr

/-- `ARB.mode` (R20). -/
inductive Mode where
  | receiving
  | transmitting
deriving DecidableEq, Repr

/-- The arbiter's control and status registers (R20 to R25). -/
structure Arb where
  /-- `ARB.mode`. -/
  mode : Mode
  /-- `ARB.passive`. -/
  passive : Bool
  /-- `ARB.cfg_err`. -/
  cfgErr : Bool
  /-- `ARB.last_seen_heater`. -/
  lastSeenHeater : Option Nat
  /-- `ARB.last_seen_controller`. -/
  lastSeenController : Option Nat
  /-- `ARB.last_local_tx`. -/
  lastLocalTx : Option Nat
  /-- `ARB.t_reset`. -/
  tReset : Nat
deriving DecidableEq, Repr

/-- The transmit sequencer (R28). -/
structure Seq where
  /-- `SEQ.frame`. -/
  frame : RawFrame
  /-- `SEQ.rep`. -/
  rep : Nat
  /-- `SEQ.pos`. -/
  pos : Nat
  /-- `SEQ.deadline`. -/
  deadline : Nat
deriving DecidableEq, Repr

/-- `LINE.dir` (R30). -/
inductive Dir where
  | input
  | output
deriving DecidableEq, Repr

/-- The line (R30, R31). -/
structure Line where
  /-- `LINE.dir`. -/
  dir : Dir
  /-- `LINE.out`. -/
  out : Level
  /-- `LINE.ext`, the level the other talkers impose: an input, moved by `ENV_LINE`. -/
  ext : Level
  /-- `LINE.level`, the level the block reads. -/
  level : Level
  /-- The model's own: how many draws of `Config.lineDraw` have been made (U1; log 4). -/
  draws : Nat
deriving DecidableEq, Repr

/-! ### The outputs (R32) -/

/-- An event of the log with its info (R195 to R205). -/
inductive Event where
  /-- `E_NOISE`: the class and `DEC.phase` (R197). -/
  | noise (c : PulseClass) (phase : Phase)
  /-- `E_CHECKSUM`: the bytes as captured (R198). -/
  | checksum (bytes : Bytes)
  /-- `E_LENGTH`: `DEC.nbytes` and `DEC.nbits` (R199). -/
  | length (nbytes nbits : Nat)
  /-- `E_OVERFLOW` (R200). -/
  | overflow
  /-- `E_STARVED`: which of `no_frame_in_progress`, `spacing_ok`, `budget_ok or controller_absent` were false (R201). -/
  | starved (frameFailed spacingFailed windowFailed : Bool)
  /-- `E_CONFIG` (R204). -/
  | config
  /-- `E_DOMAIN`, never raised by the block (R202). -/
  | domain
  /-- `E_QDROP`: which queue (R203). -/
  | qdrop (q : QueueId)
  /-- `FRAME_OK`: source and length (R195). -/
  | frameOk (src : Source) (len : Nat)
  /-- `TX_START`: the frame (R195). -/
  | txStart (f : RawFrame)
  /-- `TX_DONE`: the frame (R195). -/
  | txDone (f : RawFrame)
  /-- `CMD_DROPPED`: the frame; the reason is always `config` (R195). -/
  | cmdDropped (f : RawFrame)
deriving DecidableEq, Repr

/-- An entry of the log: event and time (R195); the code is a function of the event. -/
structure LogEntry where
  event : Event
  time : Nat
deriving DecidableEq, Repr

/-- A piece of the waveform driven on the line (R32 (b)). -/
structure Segment where
  level : Level
  start : Nat
  stop : Nat
deriving DecidableEq, Repr

/-- The status registers the host can read: those of R32 (d), and `ARB.t_reset`, which R34 lists as readable by the host
(DEDUCED, log 27). -/
structure StatusRegs where
  mode : Mode
  passive : Bool
  cfgErr : Bool
  lastSeenHeater : Option Nat
  lastSeenController : Option Nat
  lastLocalTx : Option Nat
  tReset : Nat
  txqLen : Nat
  rxqLen : Nat
deriving DecidableEq, Repr

/-- What the last operation that answers something answered. -/
inductive Result where
  /-- Nothing answered yet. -/
  | nothing
  /-- The operation was not enabled: its agent waits and nothing else changed (R8, R45; log 10). -/
  | notEnabled
  /-- A queue entry, or none (R45 to R47). -/
  | entry (e : Option QueueEntry)
  /-- A received frame, or none (R182, R183). -/
  | frame (f : Option RawFrame)
  /-- A length class (R120). -/
  | lenClass (k : LenClass)
  /-- A checksum (R122, R186). -/
  | byte (b : Byte)
  /-- The status registers (R185). -/
  | status (regs : StatusRegs)
deriving DecidableEq, Repr

/-- The outputs of R32, R33: no rule reads them. -/
structure Outputs where
  /-- The log (R195). -/
  log : List LogEntry
  /-- The waveform (R32 (b)). -/
  wave : List Segment
  /-- How many times `WAKE` has been pulsed (R87). -/
  wakes : Nat
  /-- The frames the host has taken from `RXQ` (R32 (a)). -/
  taken : List RawFrame
  /-- What the last operation that answers something answered. -/
  result : Result
deriving DecidableEq, Repr

/-! ### The state -/

/-- The state: the tuple of R10, the inputs `now`, `CFG` and `LINE.ext` that a machine running by itself must hold, the
outputs, and the script of the operations that happen next (log 7). -/
structure State where
  cap : Cap
  pq : List Pulse
  dec : Dec
  arb : Arb
  txq : List RawFrame
  rxq : List RawFrame
  seq : Seq
  line : Line
  now : Nat
  cfg : Cfg
  out : Outputs
  script : Bytes
deriving DecidableEq, Repr

/-- What `SEQ.frame` is normalised to where the spec gives it no value (R28, U9; log 3). -/
def noFrame : RawFrame := ⟨[], .loc, 0⟩

/-- The registers R36 gives a value, for a configuration, a time and a line level at reset release; the outputs, the time
and the script are those given. -/
def State.released (c : Cfg) (now : Nat) (ext : Level) (draws : Nat) (out : Outputs) (script : Bytes) : State where
  cap := ⟨ext, now⟩
  pq := []
  dec := ⟨[], 0, 0, 0, .idle, .phNone⟩
  arb := ⟨.receiving, c.passiveAtReset, !c.pinConfigured, none, none, none, now⟩
  txq := []
  rxq := []
  seq := ⟨noFrame, 0, 0, 0⟩
  line := ⟨.input, low, ext, ext, draws⟩
  now := now
  cfg := c
  out := out
  script := script

/-- The machine right after reset (R36, R230), with the default configuration, at time 0 and with the line at rest
(log 1, log 2), and nothing scheduled (log 7). -/
def State.reset : State :=
  State.released Config.default 0 high 0 ⟨[], [], 0, [], .nothing⟩ []

end Sys2Proof.Machine
end

