-- ==== Sys2Proof/Machine/Flags.lean ====
section
/-! DEFINITION. The one-bit conditions computed from the state and `now`: status flags, enabling conditions, and the
transmission precondition (spec 10_state.md R19, 41_decoder.md R106, R111, 43_arbiter.md R136 to R141, 44_transmitter.md
R168 to R171). They are pure and change nothing (R137). -/
namespace Sys2Proof.Machine

/-- The flag `started` (R19). -/
def started (s : State) : Bool := s.dec.state == .started

/-- `ARB.mode = Receiving`. -/
def isReceiving (s : State) : Bool := s.arb.mode == .receiving

/-- `ARB.mode = Transmitting`. -/
def isTransmitting (s : State) : Bool := s.arb.mode == .transmitting

/-- A frame is in flight and the receiver is not blinded by a transmission (R52 (e), R96). -/
def inFlight (s : State) : Bool := isReceiving s && started s

/-- The frame in flight has a legal length: 9 or 12 bytes and no partial byte (R42, R106). -/
def wholeFrame (s : State) : Bool := legalLen s.dec.nbytes && s.dec.nbits == 0

/-- The collision of R31: the block drives the line and another talker drives it low. -/
def contention (s : State) : Bool := s.line.dir == .output && s.line.ext == low

/-- `no_frame_in_progress` (R138). -/
def noFrameInProgress (s : State) : Bool := s.dec.state != .started

/-- `spacing_ok` (R139). -/
def spacingOk (s : State) : Bool :=
  match s.arb.lastLocalTx with
  | none => true
  | some t => decide (s.cfg.minCmdSpacing ≤ s.now - t)

/-- `budget_ok` (R140). -/
def budgetOk (s : State) : Bool :=
  match s.arb.lastSeenController with
  | none => false
  | some t => decide (s.now + s.cfg.repeatCount * s.cfg.worstFrame < t + s.cfg.controllerPeriod)

/-- `controller_absent` (R141). -/
def controllerAbsent (s : State) : Bool :=
  match s.arb.lastSeenController with
  | some t => decide (s.cfg.controllerPeriod < s.now - t)
  | none => decide (s.cfg.controllerPeriod < s.now - s.arb.tReset)

/-- `tx_allowed` (R136). -/
def txAllowed (s : State) : Bool :=
  noFrameInProgress s && spacingOk s && (budgetOk s || controllerAbsent s)

/-- The enabling condition of `EDGE` (R81). -/
def edgeEnabled (s : State) : Bool := s.cfg.pinConfigured && s.line.level != s.cap.lastLevel

/-- The enabling condition of `RX_TIMEOUT` (R111). -/
def timeoutEnabled (s : State) : Bool :=
  isReceiving s && started s && s.pq.isEmpty && decide (s.cfg.idleTimeout ≤ s.now - s.cap.lastEdge)

/-- `TICK(dt)` may be taken: time passes, and not past a segment boundary (R83, R168). -/
def tickEnabled (dt : Nat) (s : State) : Bool :=
  decide (0 < dt) && (isReceiving s || decide (s.now + dt ≤ s.seq.deadline))

/-- A segment boundary is due (R168). -/
def atDeadline (s : State) : Bool := isTransmitting s && s.now == s.seq.deadline

/-- The segment in progress is the last of the last repetition (R169, R171). -/
def atLastSegment (s : State) : Bool :=
  s.seq.pos == lastSeg s.seq.frame.bytes && s.seq.rep + 1 == s.cfg.repeatCount

/-- The enabling condition of `TX_SCHED` (R143). -/
def schedEnabled (s : State) : Bool := isReceiving s && !s.txq.isEmpty

/-- What a scheduling pass tests before it starts a transmission: a pin, active mode, `tx_allowed` (R136, R143). -/
def mayTransmit (s : State) : Bool := s.cfg.pinConfigured && !s.arb.passive && txAllowed s

/-- A scheduling pass would be deferred for want of a window (R143, R201). -/
def starves (s : State) : Bool :=
  schedEnabled s && s.cfg.pinConfigured && !s.arb.passive && !txAllowed s

/-- `enq` of this entry can happen: with no pin `PQ` stays empty and the receive side, which produces the entries of `RXQ`, is
disabled (R14, R27, R85; log 25). -/
def enqEnabled (e : QueueEntry) (s : State) : Bool :=
  match e with
  | .pulse _ => s.cfg.pinConfigured
  | .received _ => s.cfg.pinConfigured
  | .command _ => true

/-- A queue is at capacity (R44). -/
def queueFull (q : QueueId) (s : State) : Bool :=
  match q with
  | .pq => s.pq.length == s.cfg.pqDepth
  | .rxq => s.rxq.length == s.cfg.rxqDepth
  | .txq => s.txq.length == s.cfg.txqDepth

/-- The status registers of R32 (d), and `ARB.t_reset` (R34; log 27). -/
def statusRegs (s : State) : StatusRegs :=
  ⟨s.arb.mode, s.arb.passive, s.arb.cfgErr, s.arb.lastSeenHeater, s.arb.lastSeenController, s.arb.lastLocalTx,
   s.arb.tReset, s.txq.length, s.rxq.length⟩

end Sys2Proof.Machine
end

