-- ==== Sys2Proof/Machine/Ops.lean ====
section
/-! DEFINITION. The named operations over the frame buffer, the queues, the log, the line, the decoder, the validator, the
arbiter and the sequencer, shared by the meanings (spec 20_memory.md, 40_pulse_capture.md to 44_transmitter.md,
60_exceptions.md). -/
namespace Sys2Proof.Machine

/-! ### The frame buffer (R40, R57) -/

/-- How many bytes the frame buffer has, `MAX_FRAME_LEN` (R4, R15). -/
def bufSize : Nat := 12

/-- What an index of the frame buffer that is not listed reads as (R15 gives no value, U9 lets a model fix one; log 3). -/
def unlistedByte : Byte := 0

/-- `DEC.buf[i]` (R7). -/
def bufRead : Memory → Nat → Byte
  | [], _ => unlistedByte
  | (a, b) :: m, i => if a = i then b else bufRead m i

/-- The cells with index `i` set to `b`, in rising order and with no cell that equals an unlisted one. -/
def bufInsert : Memory → Nat → Byte → Memory
  | [], i, b => if b = unlistedByte then [] else [(i, b)]
  | (a, x) :: m, i, b =>
    if i < a then (if b = unlistedByte then (a, x) :: m else (i, b) :: (a, x) :: m)
    else if i = a then (if b = unlistedByte then m else (i, b) :: m)
    else (a, x) :: bufInsert m i b

/-- `DEC.buf[i] <- b` (R7); no byte is ever written at an index of 12 or more (R18 (d)). -/
def bufWrite (m : Memory) (i : Nat) (b : Byte) : Memory := if i < bufSize then bufInsert m i b else m

/-- The cells rise strictly from `lo` on, lie inside the buffer and differ from an unlisted cell. -/
def wfFrom : Nat → Memory → Bool
  | _, [] => true
  | lo, (a, b) :: m => decide (lo ≤ a) && decide (a < bufSize) && b != unlistedByte && wfFrom (a + 1) m

/-- The canonical form of the frame buffer. -/
def Memory.wf (m : Memory) : Bool := wfFrom 0 m

/-- The first `n` bytes of the frame buffer. -/
def bufTake (m : Memory) (n : Nat) : Bytes := (List.range n).map (bufRead m)

/-! ### The log (R195, R196) -/

/-- The code of an event (R205). -/
def eventCode : Event → Byte
  | .noise _ _ => 1
  | .checksum _ => 2
  | .length _ _ => 3
  | .overflow => 4
  | .starved _ _ _ => 5
  | .config => 6
  | .domain => 7
  | .qdrop _ => 8
  | .frameOk _ _ => 16
  | .txStart _ => 17
  | .txDone _ => 18
  | .cmdDropped _ => 19

/-- `log(ev)` and the log half of `raise E(info)`: append `(code, info, now)` (R195, R196). This is the one operation by
which every error is taken: nothing else is saved and nothing is redirected (R209); the recovery is the raising rule's. -/
def raise (ev : Event) (s : State) : State := { s with out := { s.out with log := s.out.log ++ [⟨ev, s.now⟩] } }

/-- The value an operation answers with. -/
def answer (r : Result) (s : State) : State := { s with out := { s.out with result := r } }

/-- The outcome of an operation that is not enabled: its agent takes no step (R8, R45; log 10). -/
def waits (s : State) : Host.Outcome State Fault Refusal := .next (answer .notEnabled s)

/-! ### The bounded queues (R43 to R48) -/

/-- `enq(Q, v)` on a queue of capacity `cap`: at capacity the oldest entry goes first (R44). -/
def enqList {α : Type} (cap : Nat) (q : List α) (v : α) : List α := (if q.length = cap then q.tail else q) ++ [v]

/-- `raise E_QDROP(Q)` if the queue is at capacity (R44, R203). -/
def dropLog (q : QueueId) (s : State) : State := if queueFull q s then raise (.qdrop q) s else s

/-- `enq(PQ, p)`. -/
def enqPulse (p : Pulse) (s : State) : State :=
  { dropLog .pq s with pq := enqList s.cfg.pqDepth s.pq p }

/-- `enq(RXQ, f)`. -/
def enqReceived (f : RawFrame) (s : State) : State :=
  { dropLog .rxq s with rxq := enqList s.cfg.rxqDepth s.rxq f }

/-- `enq(TXQ, f)`. -/
def enqCommand (f : RawFrame) (s : State) : State :=
  { dropLog .txq s with txq := enqList s.cfg.txqDepth s.txq f }

/-- `enq` of an entry on its queue. -/
def enqEntry (e : QueueEntry) (s : State) : State :=
  match e with
  | .pulse p => enqPulse p s
  | .received f => enqReceived f s
  | .command f => enqCommand f s

/-- `peek(Q)` (R47). -/
def peekQueue (q : QueueId) (s : State) : Option QueueEntry :=
  match q with
  | .pq => s.pq.head?.map .pulse
  | .rxq => s.rxq.head?.map .received
  | .txq => s.txq.head?.map .command

/-- The queue without its oldest entry (R45, R46); a frame that leaves `RXQ` is one the host has taken (R32 (a)). -/
def dropHead (q : QueueId) (s : State) : State :=
  match q with
  | .pq => { s with pq := s.pq.tail }
  | .rxq => { s with rxq := s.rxq.tail, out := { s.out with taken := s.out.taken ++ s.rxq.head?.toList } }
  | .txq => { s with txq := s.txq.tail }

/-- `flush(Q)` (R48). -/
def flushQueue (q : QueueId) (s : State) : State :=
  match q with
  | .pq => { s with pq := [] }
  | .rxq => { s with rxq := [] }
  | .txq => { s with txq := [] }

/-- The signal `Q.cancel` (R49): tied to 0 but for `RXQ`, whose value is the host's. -/
def cancelled (q : QueueId) (hostCancel : Bool) : Bool :=
  match q with
  | .pq => false
  | .rxq => hostCancel
  | .txq => false

/-! ### The line and its capture (R30, R31, R80, R81) -/

/-- `LINE.level` recomputed by R31: the others' level while the direction is Input; the block's while it drives and nobody
pulls low; a draw in a collision (U1; log 4). -/
def relevel (s : State) : State :=
  if s.line.dir = .input then { s with line := { s.line with level := s.line.ext } }
  else if s.line.ext = high then { s with line := { s.line with level := s.line.out } }
  else { s with line := { s.line with level := Config.lineDraw s.line.draws, draws := s.line.draws + 1 } }

/-- `EDGE` of R81: capture the transition that ended the elapsing pulse, and pulse `WAKE`. -/
def capture (s : State) : State :=
  let s1 := enqPulse ⟨s.cap.lastLevel, sat32 (s.now - s.cap.lastEdge)⟩ s
  { s1 with cap := ⟨s.line.level, s.now⟩, out := { s1.out with wakes := s1.out.wakes + 1 } }

/-- `EDGE` where it is enabled (R81, R85). -/
def edgeOp (s : State) : State := if edgeEnabled s then capture s else s

/-- The end of a step that may have changed the line: the level is recomputed, and `EDGE` runs if it changed (R80). -/
def settleLine (s : State) : State :=
  if (relevel s).line.level = s.line.level then relevel s else edgeOp (relevel s)

/-- The draw of a step in a collision that did not itself recompute the level (U1; log 4): `drawsBefore` is the number of
draws when the step began. -/
def contendLine (drawsBefore : Nat) (s : State) : State :=
  if contention s && s.line.draws == drawsBefore then settleLine s else s

/-! ### The decoder (R97 to R111) -/

/-- `begin_frame` of R97. -/
def beginFrame (s : State) : State :=
  { s with dec := { s.dec with state := .started, phase := .phNone, nbytes := 0, nbits := 0, cur := 0 } }

/-- `reset_idle` of R97. -/
def resetIdle (s : State) : State :=
  { s with dec := { s.dec with state := .idle, phase := .phNone, nbytes := 0, nbits := 0, cur := 0 } }

/-- `DEC.phase <- ph`. -/
def setPhase (ph : Phase) (s : State) : State := { s with dec := { s.dec with phase := ph } }

/-- `noise` of R107, for a pulse of class `c`. -/
def noiseOp (c : PulseClass) (s : State) : State := resetIdle (raise (.noise c s.dec.phase) s)

/-- The data registers after a bit that has room (R104). -/
def shiftBit (v : Bool) (d : Dec) : Dec :=
  let cur : Byte := BitVec.ofNat 8 ((2 * d.cur.toNat + v.toNat) % 256)
  if d.nbits + 1 = 8 then { d with buf := bufWrite d.buf d.nbytes cur, nbytes := d.nbytes + 1, nbits := 0, cur := 0 }
  else { d with cur := cur, nbits := d.nbits + 1 }

/-- `push_bit(v)` of R104, with the overflow of R105. -/
def pushBitOp (v : Bool) (s : State) : State :=
  if s.dec.nbytes = bufSize then resetIdle (raise .overflow s)
  else { s with dec := shiftBit v s.dec }

/-- The candidate frame `B = DEC.buf[0 .. DEC.nbytes-1]` (R119). -/
def candidate (s : State) : Bytes := bufTake s.dec.buf s.dec.nbytes

/-- `ARB_FRAME_SEEN(f)` of R135, by the source of `f`. -/
def frameSeen (src : Source) (s : State) : State :=
  match src with
  | .controller => { s with arb := { s.arb with lastSeenController := some s.now } }
  | .heater => { s with arb := { s.arb with lastSeenHeater := some s.now } }
  | .unknown => s
  | .loc => s

/-- `FINALIZE(B', src)` of R128. -/
def finalizeOp (bytes : Bytes) (src : Source) (s : State) : State :=
  raise (.frameOk src bytes.length) (enqReceived ⟨bytes, src, s.now⟩ (frameSeen src s))

/-- `VALIDATE` of R125. -/
def validateOp (s : State) : State :=
  match verdict (candidate s) with
  | some (bytes, src) => finalizeOp bytes src s
  | none => raise (.checksum (candidate s)) s

/-- What follows the end of a frame: `reset_idle` or `begin_frame` (R106). -/
def afterFrame (cause : EndCause) (s : State) : State :=
  match cause with
  | .timeout => resetIdle s
  | .restart => beginFrame s

/-- The first half of `complete` (R106): a whole frame is validated in `DEC.state = Complete`, any other is discarded. -/
def judgeFrame (s : State) : State :=
  if wholeFrame s then validateOp { s with dec := { s.dec with state := .complete } }
  else raise (.length s.dec.nbytes s.dec.nbits) s

/-- `complete(cause)` of R106. -/
def completeOp (cause : EndCause) (s : State) : State := afterFrame cause (judgeFrame s)

/-- `DEC_START_LO` of R98. -/
def decStartLoOp (s : State) : State :=
  if s.dec.state = .idle then setPhase .phStartLow s
  else if s.dec.state = .started ∧ s.dec.phase = .phNone then setPhase .phStartLow s
  else noiseOp .startLo s

/-- `DEC_START_HI` of R99. -/
def decStartHiOp (s : State) : State :=
  if s.dec.state = .idle ∧ s.dec.phase = .phStartLow then beginFrame s
  else if s.dec.state = .idle then setPhase .phNone s
  else if s.dec.state = .started ∧ s.dec.phase = .phStartLow then completeOp .restart s
  else noiseOp .startHi s

/-- `DEC_BIT_LO` of R100. -/
def decBitLoOp (s : State) : State :=
  if s.dec.state = .idle then setPhase .phNone s
  else if s.dec.state = .started ∧ s.dec.phase = .phNone then setPhase .phBitLow s
  else noiseOp .bitLo s

/-- `DEC_BIT_SHORT` of R101. -/
def decBitShortOp (s : State) : State :=
  if s.dec.state = .idle then setPhase .phNone s
  else if s.dec.state = .started ∧ s.dec.phase = .phBitLow then setPhase .phNone (pushBitOp (!s.cfg.longBit) s)
  else noiseOp .bitShort s

/-- `DEC_BIT_LONG` of R102. -/
def decBitLongOp (s : State) : State :=
  if s.dec.state = .idle then setPhase .phNone s
  else if s.dec.state = .started ∧ s.dec.phase = .phBitLow then setPhase .phNone (pushBitOp s.cfg.longBit s)
  else noiseOp .bitLong s

/-- `DEC_IDLE` of R103. -/
def decIdleOp (s : State) : State :=
  if s.dec.state = .idle then setPhase .phNone s else completeOp .timeout s

/-- `DEC_INVALID` of R110. -/
def decInvalidOp (s : State) : State :=
  if s.dec.state = .idle then setPhase .phNone s else noiseOp .invalid s

/-- The decoder operation of a pulse class (R96). -/
def decodeClass (c : PulseClass) (s : State) : State :=
  match c with
  | .startLo => decStartLoOp s
  | .startHi => decStartHiOp s
  | .bitLo => decBitLoOp s
  | .bitShort => decBitShortOp s
  | .bitLong => decBitLongOp s
  | .idle => decIdleOp s
  | .invalid => decInvalidOp s

/-- A decoder operation selected by the class of its pulse: run while Receiving (R96); while Transmitting no pulse changes
the decoder (R52 (e)), and with no pin bound there is no pulse (R85; log 25): the operation is then not selected. -/
def runDecoder (op : State → State) (s : State) : Host.Outcome State Fault Refusal :=
  if isReceiving s && s.cfg.pinConfigured then .next (op s) else waits s

/-- `RX_PULSE` of R96 on a pulse taken from `PQ`: decoded while Receiving, discarded while Transmitting. -/
def receivePulse (p : Pulse) (s : State) : State :=
  if isTransmitting s then s else decodeClass (classify s.cfg p) s

/-- `RX_PULSE` of R96 where `PQ` is not empty; nothing where it is. -/
def rxPulseOp (s : State) : State :=
  match s.pq with
  | [] => s
  | p :: rest => receivePulse p { s with pq := rest }

/-- One pulse of a train fed to the block: `enq(PQ, pulse)` then `RX_PULSE` (R73). -/
def feedPulse (s : State) (p : Pulse) : State := rxPulseOp (enqPulse p s)

/-- A pulse train fed to the block (R73). -/
def feedTrain (ps : List Pulse) (s : State) : State := ps.foldl feedPulse s

/-- A row that is a pulse train: fed where a pin is bound; with none `PQ` stays empty and nothing is received (R85; log 25). -/
def runTrain (ps : List Pulse) (s : State) : Host.Outcome State Fault Refusal :=
  if s.cfg.pinConfigured then .next (feedTrain ps s) else waits s

/-! ### The arbiter and the sequencer (R143, R167 to R171) -/

/-- The event of a deferral: which of the three conditions were false (R143, R201). -/
def starvedEvent (s : State) : Event :=
  .starved (!noFrameInProgress s) (!spacingOk s) (!(budgetOk s || controllerAbsent s))

/-- The line driven at `lv` for `d` microseconds from now on, as the waveform shows it (R32 (b), R165). -/
def driveSegment (lv : Level) (d : Nat) (s : State) : State :=
  { s with
    line := { s.line with out := lv }
    seq := { s.seq with deadline := s.now + d }
    out := { s.out with wave := s.out.wave ++ [⟨lv, s.now, s.now + d⟩] } }

/-- The registers `TX_BEGIN(c)` writes before the line settles (R167). -/
def takeLine (c : RawFrame) (s : State) : State :=
  driveSegment low s.cfg.startLo
    { s with
      arb := { s.arb with mode := .transmitting }
      line := { s.line with dir := .output }
      seq := { s.seq with frame := c, rep := 0, pos := 0 } }

/-- `TX_BEGIN(c)` of R167. -/
def txBeginOp (c : RawFrame) (s : State) : State := settleLine (raise (.txStart c) (takeLine c s))

/-- `SEQ.rep` and `SEQ.pos` after the segment in progress (R166, R169). -/
def nextSeq (q : Seq) : Seq :=
  if q.pos < lastSeg q.frame.bytes then { q with pos := q.pos + 1 } else { q with pos := 0, rep := q.rep + 1 }

/-- `TX_SEG` of R169. -/
def txSegOp (s : State) : State :=
  let q := nextSeq s.seq
  let sg := seg s.cfg q.frame.bytes q.pos
  settleLine (driveSegment sg.1 sg.2 { s with seq := q })

/-- `TX_END` of R171: the line is released, `PQ` flushed, the decoder reset and capture re-based; `EDGE` does not run. -/
def txEndOp (s : State) : State :=
  let s1 := relevel { s with line := { s.line with dir := .input } }
  let s2 := resetIdle { s1 with
    arb := { s1.arb with mode := .receiving, lastLocalTx := some s1.now }
    pq := []
    cap := ⟨s1.line.level, s1.now⟩ }
  raise (.txDone s.seq.frame) s2

/-- The waveform when the line is released at `now` in the middle of a segment (R232). -/
def cutWave (now : Nat) : List Segment → List Segment
  | [] => []
  | [g] => [⟨g.level, g.start, now⟩]
  | g :: rest => g :: cutWave now rest

/-- `RESET(CFG)` of R230 with R231, for a well-formed record: every register takes its value of R36; a transmission is
abandoned with the line released (R232). What R36 gives no value is normalised (log 3). -/
def resetOp (c : Cfg) (s : State) : State :=
  let wave := if isTransmitting s then cutWave s.now s.out.wave else s.out.wave
  let s1 := State.released c s.now s.line.ext s.line.draws { s.out with wave := wave } s.script
  if c.pinConfigured then s1 else raise .config s1

end Sys2Proof.Machine
end

