-- ==== Sys2Proof/Machine/Arbiter.lean ====
section
/-! DEFINITION. The meanings of the arbiter's rows: `ARB_FRAME_SEEN` and the scheduling pass `TX_SCHED` (spec
43_arbiter.md). -/
namespace Sys2Proof.Machine

/-- `ARB_FRAME_SEEN(f)` (R135), called by `FINALIZE` only, so with a pin bound (R85; log 25). DESIGN CHOICE (log 11): as a
row of its own it runs in either mode, also with no frame ended; the spec reaches it inside `complete` only, while
Receiving (R96, R111). -/
def execArbFrameSeen (src : Source) (s : State) : Host.Outcome State Fault Refusal :=
  if s.cfg.pinConfigured then .next (frameSeen src s) else waits s

/-- The scheduling pass of R143 with the command `c` at the head of `TXQ`: dropped for want of a pin (R145), left alone in
passive mode (R144), deferred (R144), or sent. -/
def schedPass (c : RawFrame) (s : State) : State :=
  if s.cfg.pinConfigured = false then raise (.cmdDropped c) (dropHead .txq s)
  else if s.arb.passive then s
  else if txAllowed s = false then raise (starvedEvent s) s
  else txBeginOp c (dropHead .txq s)

/-- `TX_SCHED` (R143), enabled while Receiving with a command queued. -/
def execTxSched (s : State) : Host.Outcome State Fault Refusal :=
  if isReceiving s then
    match s.txq with
    | [] => waits s
    | c :: _ => .next (schedPass c s)
  else waits s

end Sys2Proof.Machine
end

