-- ==== Sys2Proof/Machine/Capture.lean ====
section
/-! DEFINITION. The meanings of ENV's and CAP's rows: `ENV_LINE`, `TICK`, `EDGE` (spec 40_pulse_capture.md). -/
namespace Sys2Proof.Machine

/-- `ENV_LINE(v)` (R82): the others impose another level; the level is recomputed and `EDGE` runs if it changed. -/
def execEnvLine (v : Level) (s : State) : Host.Outcome State Fault Refusal :=
  if v = s.line.ext then waits s else .next (settleLine { s with line := { s.line with ext := v } })

/-- `TICK(dt)` (R83): time passes, not past a segment boundary, and not past the counter's range (R6, U2). -/
def execTick (dt : Nat) (s : State) : Host.Outcome State Fault Refusal :=
  if tickEnabled dt s then
    (if s.now + dt ≤ timeMax then .next { s with now := s.now + dt } else .refused .timeBeyondRange)
  else waits s

/-- `EDGE` (R81), enabled only where the line differs from what was last captured and a pin is bound. -/
def execEdge (s : State) : Host.Outcome State Fault Refusal :=
  if edgeEnabled s then .next (capture s) else waits s

end Sys2Proof.Machine
end

