-- ==== Sys2Proof/Machine/Decoder.lean ====
section
/-! DEFINITION. The meanings of the receive agent's rows: the seven `DEC_*` operations, `RX_PULSE`, `RX_TIMEOUT`, and the
decoder's helper procedures under the condition they are called in (spec 41_decoder.md; log 11). -/
namespace Sys2Proof.Machine

/-- `DEC_IDLE` (R103). -/
def execDecIdle (_p : Pulse) (s : State) : Host.Outcome State Fault Refusal := runDecoder decIdleOp s

/-- `DEC_BIT_LO` (R100). -/
def execDecBitLo (_p : Pulse) (s : State) : Host.Outcome State Fault Refusal := runDecoder decBitLoOp s

/-- `DEC_START_LO` (R98). -/
def execDecStartLo (_p : Pulse) (s : State) : Host.Outcome State Fault Refusal := runDecoder decStartLoOp s

/-- `DEC_BIT_SHORT` (R101). -/
def execDecBitShort (_p : Pulse) (s : State) : Host.Outcome State Fault Refusal := runDecoder decBitShortOp s

/-- `DEC_BIT_LONG` (R102). -/
def execDecBitLong (_p : Pulse) (s : State) : Host.Outcome State Fault Refusal := runDecoder decBitLongOp s

/-- `DEC_START_HI` (R99). -/
def execDecStartHi (_p : Pulse) (s : State) : Host.Outcome State Fault Refusal := runDecoder decStartHiOp s

/-- `DEC_INVALID` (R110). -/
def execDecInvalid (_p : Pulse) (s : State) : Host.Outcome State Fault Refusal := runDecoder decInvalidOp s

/-- `RX_PULSE` (R96), enabled while `PQ` is not empty. -/
def execRxPulse (s : State) : Host.Outcome State Fault Refusal :=
  if s.pq.isEmpty then waits s else .next (rxPulseOp s)

/-- `RX_TIMEOUT` (R111). -/
def execRxTimeout (s : State) : Host.Outcome State Fault Refusal :=
  if timeoutEnabled s then .next (completeOp .timeout s) else waits s

/-- `PUSH_BIT` (R104, R105), called for a frame in flight; as a row of its own in any phase (log 11). -/
def execPushBit (v : Bool) (s : State) : Host.Outcome State Fault Refusal :=
  if inFlight s then .next (pushBitOp v s) else waits s

/-- `COMPLETE` (R106, R108, R109), called for a frame in flight; as a row of its own in any phase, with either cause
(log 11). -/
def execComplete (cause : EndCause) (s : State) : Host.Outcome State Fault Refusal :=
  if inFlight s then .next (completeOp cause s) else waits s

/-- `NOISE` (R107), reached only from `DEC.state = Started`; as a row of its own with any class, also one that R110 does not
list for the phase (log 11). -/
def execNoise (c : PulseClass) (s : State) : Host.Outcome State Fault Refusal :=
  if inFlight s then .next (noiseOp c s) else waits s

end Sys2Proof.Machine
end

