-- ==== Sys2Proof/Machine/HostOps.lean ====
section
/-! DEFINITION. The meanings of the host's rows (spec 45_host_ops.md; 70_reset_and_hazards.md R230 to R232). -/
namespace Sys2Proof.Machine

/-- `HOST_CMD(bytes)` (R180): queue a command; refused for a length other than 9 and 12. -/
def execHostCmd (bytes : Bytes) (s : State) : Host.Outcome State Fault Refusal :=
  if legalLen bytes.length then .next (enqCommand ⟨bytes, .loc, s.now⟩ s) else .refused (.frameLength bytes.length)

/-- `HOST_RX_POP` (R182): the oldest received frame, or none. -/
def execHostRxPop (s : State) : Host.Outcome State Fault Refusal :=
  .next (answer (.frame s.rxq.head?) (dropHead .rxq s))

/-- `HOST_RX_WAIT` (R183): blocks while `RXQ` is empty and not cancelled. -/
def execHostRxWait (cancel : Bool) (s : State) : Host.Outcome State Fault Refusal :=
  if s.rxq.isEmpty && !cancelled .rxq cancel then waits s
  else .next (answer (.frame s.rxq.head?) (dropHead .rxq s))

/-- `HOST_SET_PASSIVE(v)` (R184). -/
def execHostSetPassive (v : Bool) (s : State) : Host.Outcome State Fault Refusal :=
  .next { s with arb := { s.arb with passive := v } }

/-- `HOST_STATUS` (R185). -/
def execHostStatus (s : State) : Host.Outcome State Fault Refusal := .next (answer (.status (statusRegs s)) s)

/-- `HOST_CSUM(bytes)` (R186): refused for a length other than 9 and 12. -/
def execHostCsum (bytes : Bytes) (s : State) : Host.Outcome State Fault Refusal :=
  if legalLen bytes.length then .next (answer (.byte (csumOf bytes)) s) else .refused (.frameLength bytes.length)

/-- `RESET(CFG)` (R230): refused for an ill-formed record (R5); `none` is the record in force (log 17). -/
def execReset (cfg : Option Cfg) (s : State) : Host.Outcome State Fault Refusal :=
  if cfgWf (cfg.getD s.cfg) then .next (resetOp (cfg.getD s.cfg) s) else .refused .illFormedConfig

end Sys2Proof.Machine
end

