-- ==== Sys2Proof/Machine/LogRows.lean ====
section
/-! DEFINITION. The meanings of the LOG rows: `raise E(info)` with the recovery of the rule that names the error, where the
error's cause holds, and `log(ev)` for the informational events (spec 60_exceptions.md R195 to R205; log 13). -/
namespace Sys2Proof.Machine

/-- `E_NOISE` (R197): logged with the class and `DEC.phase`; the frame in flight is discarded. DESIGN CHOICE (log 13): as a
row of its own it runs for any class in its operand, also one that R110 does not list as noise in the phase. -/
def execENoise (c : PulseClass) (s : State) : Host.Outcome State Fault Refusal :=
  if inFlight s then .next (noiseOp c s) else waits s

/-- `E_CHECKSUM` (R198): a whole frame that is valid in neither polarity ended; logged with its bytes and discarded, then
`reset_idle` or `begin_frame` by the cause. -/
def execEChecksum (cause : EndCause) (s : State) : Host.Outcome State Fault Refusal :=
  if inFlight s && wholeFrame s && (verdict (candidate s)).isNone then
    .next (afterFrame cause (raise (.checksum (candidate s)) s))
  else waits s

/-- `E_LENGTH` (R199): a frame of another length, or with a partial byte, ended; logged and discarded, then `reset_idle` or
`begin_frame` by the cause. -/
def execELength (cause : EndCause) (s : State) : Host.Outcome State Fault Refusal :=
  if inFlight s && !wholeFrame s then .next (afterFrame cause (raise (.length s.dec.nbytes s.dec.nbits) s)) else waits s

/-- `E_OVERFLOW` (R200): a bit with no room; logged, the frame is discarded. -/
def execEOverflow (s : State) : Host.Outcome State Fault Refusal :=
  if inFlight s && s.dec.nbytes == bufSize then .next (resetIdle (raise .overflow s)) else waits s

/-- `E_STARVED` (R201): a scheduling pass found `tx_allowed` false; logged, nothing else. -/
def execEStarved (s : State) : Host.Outcome State Fault Refusal :=
  if starves s then .next (raise (starvedEvent s) s) else waits s

/-- `E_CONFIG` (R204, R231): no pin is bound and it has not been reported; logged, and `ARB.cfg_err` set. -/
def execEConfig (s : State) : Host.Outcome State Fault Refusal :=
  if !s.cfg.pinConfigured && !s.arb.cfgErr then .next (raise .config { s with arb := { s.arb with cfgErr := true } }) else waits s

/-- `E_DOMAIN` (R202): never raised by the block; the codecs reject the request and nothing in the block changes. -/
def execEDomain (s : State) : Host.Outcome State Fault Refusal := .next s

/-- `E_QDROP(Q)` (R203): the queue is at capacity; logged, no recovery. -/
def execEQdrop (q : QueueId) (s : State) : Host.Outcome State Fault Refusal :=
  if queueFull q s then .next (raise (.qdrop q) s) else waits s

/-- `FRAME_OK` (R195). -/
def execFrameOk (src : Source) (len : Nat) (s : State) : Host.Outcome State Fault Refusal := .next (raise (.frameOk src len) s)

/-- `TX_START` (R195). -/
def execTxStart (f : RawFrame) (s : State) : Host.Outcome State Fault Refusal := .next (raise (.txStart f) s)

/-- `TX_DONE` (R195). -/
def execTxDone (f : RawFrame) (s : State) : Host.Outcome State Fault Refusal := .next (raise (.txDone f) s)

/-- `CMD_DROPPED` (R195), reason `config`. -/
def execCmdDropped (f : RawFrame) (s : State) : Host.Outcome State Fault Refusal := .next (raise (.cmdDropped f) s)

end Sys2Proof.Machine
end

