-- ==== Sys2Proof/Machine/Queue.lean ====
section
/-! DEFINITION. The meanings of the queue primitives' rows (spec 20_memory.md R44 to R49). -/
namespace Sys2Proof.Machine

/-- `Q_ENQ`, `enq(Q, v)` (R44), on the queue whose type the value has; a value that is not of that type has no meaning. It
runs in every state, but on `PQ` and `RXQ` with no pin bound (R85; log 11, log 25). -/
def execQEnq (e : QueueEntry) (s : State) : Host.Outcome State Fault Refusal :=
  if entryOk e then (if enqEnabled e s then .next (enqEntry e s) else waits s) else .refused .notOfQueueType

/-- `Q_DEQ`, `deq(Q)` (R45): blocks while the queue is empty and not cancelled. DESIGN CHOICE (log 11): on every queue,
whichever agent is its consumer. -/
def execQDeq (q : QueueId) (cancel : Bool) (s : State) : Host.Outcome State Fault Refusal :=
  match peekQueue q s with
  | some e => .next (answer (.entry (some e)) (dropHead q s))
  | none => if cancelled q cancel then .next (answer (.entry none) s) else waits s

/-- `Q_TRYDEQ`, `trydeq(Q)` (R46): always enabled. DESIGN CHOICE (log 11): on every queue. -/
def execQTryDeq (q : QueueId) (s : State) : Host.Outcome State Fault Refusal :=
  match peekQueue q s with
  | some e => .next (answer (.entry (some e)) (dropHead q s))
  | none => .next (answer (.entry none) s)

/-- `Q_PEEK`, `peek(Q)` (R47). DESIGN CHOICE (log 11): as a row of its own it runs in every state on every queue; the spec
calls it inside `TX_SCHED` only, on `TXQ` (R72, R143). -/
def execQPeek (q : QueueId) (s : State) : Host.Outcome State Fault Refusal :=
  .next (answer (.entry (peekQueue q s)) s)

/-- `Q_FLUSH`, `flush(Q)` (R48). DESIGN CHOICE (log 11): as a row of its own it runs in every state on every queue; the spec
calls it inside `TX_END`, on `PQ`, and `RESET` only (R48, R72). -/
def execQFlush (q : QueueId) (s : State) : Host.Outcome State Fault Refusal := .next (flushQueue q s)

end Sys2Proof.Machine
end

