-- ==== Sys2Proof/Machine/Transmitter.lean ====
section
/-! DEFINITION. The meanings of the sequencer's rows: `TX_BEGIN`, `TX_SEG`, `TX_END` (spec 44_transmitter.md; log 11). -/
namespace Sys2Proof.Machine

/-- `TX_BEGIN(c)` (R167), called by `TX_SCHED` where the pass starts a transmission, with a command frame. DESIGN CHOICE
(log 11): as a row of its own it sends the frame of its operand, whether or not that frame is in `TXQ`, and takes nothing
from `TXQ`, which may be empty; the spec sends only the frame just dequeued (R143). -/
def execTxBegin (c : RawFrame) (s : State) : Host.Outcome State Fault Refusal :=
  if isReceiving s && mayTransmit s && commandOk c then .next (txBeginOp c s) else waits s

/-- `TX_SEG` (R169): a boundary that is not the end of the transmission. -/
def execTxSeg (s : State) : Host.Outcome State Fault Refusal :=
  if atDeadline s && !atLastSegment s then .next (txSegOp s) else waits s

/-- `TX_END` (R171): the end of the last segment of the last repetition. -/
def execTxEnd (s : State) : Host.Outcome State Fault Refusal :=
  if atDeadline s && atLastSegment s then .next (txEndOp s) else waits s

end Sys2Proof.Machine
end

