-- ==== Sys2Proof/Machine/Validator.lean ====
section
/-! DEFINITION. The meanings of the validator's rows: `LEN_CLASS`, `CSUM`, `VALIDATE`, `FINALIZE` (spec 42_validator.md;
log 11). -/
namespace Sys2Proof.Machine

/-- `LEN_CLASS(n)` (R120); a free value where the rule leaves it undefined (log 5). -/
def execLenClass (n : Nat) (s : State) : Host.Outcome State Fault Refusal := .next (answer (.lenClass (lenClassOf n)) s)

/-- `CSUM(B)` (R122); a free value where the rule states no result (log 6). -/
def execCsum (bytes : Bytes) (s : State) : Host.Outcome State Fault Refusal := .next (answer (.byte (csumOf bytes)) s)

/-- `VALIDATE` (R125), called by `complete` with `DEC.state = Complete` and a whole frame. -/
def execValidate (s : State) : Host.Outcome State Fault Refusal :=
  if s.dec.state = .complete ∧ wholeFrame s = true then .next (validateOp s) else waits s

/-- `FINALIZE(B', src)` (R128), called when `VALIDATE` succeeded: `B'` has a legal length and is valid, the source is
Heater or Controller (R127), and a pin is bound (R85; log 25). DESIGN CHOICE (log 11): as a row of its own it runs in either
mode, also with no frame ended; the spec reaches it inside `complete` only, while Receiving (R96, R111). -/
def execFinalize (bytes : Bytes) (src : Source) (s : State) : Host.Outcome State Fault Refusal :=
  if receivedOk ⟨bytes, src, s.now⟩ && s.cfg.pinConfigured then .next (finalizeOp bytes src s) else waits s

end Sys2Proof.Machine
end

