-- ==== Sys2Proof/Machine/Wire.lean ====
section
/-! DEFINITION. The meanings of the rows of formats W, F12 and F9: the pulse train of the symbol or frame, fed to the block
pulse by pulse where a pin is bound (spec 30_encoding.md R62, R66 to R68, R73, R74; 40_pulse_capture.md R85; log 12, log 25). -/
namespace Sys2Proof.Machine

/-- `START` (R62, R74): the start marker. -/
def execStart (s : State) : Host.Outcome State Fault Refusal := runTrain (startSymbol s.cfg) s

/-- `SHORT` (R62, R74): a short bit. -/
def execShort (s : State) : Host.Outcome State Fault Refusal := runTrain (shortSymbol s.cfg) s

/-- `LONG` (R62, R74): a long bit. -/
def execLong (s : State) : Host.Outcome State Fault Refusal := runTrain (longSymbol s.cfg) s

/-- `SPACING` (R62, R163, R74 `TERM GAP`): terminator and gap. -/
def execSpacing (s : State) : Host.Outcome State Fault Refusal := runTrain (spacingSymbol s.cfg) s

/-- `F12` (R66, R68, R74 `FRAME`): a whole long frame. -/
def execF12 (bytes : Bytes) (s : State) : Host.Outcome State Fault Refusal := runTrain (frameTrain s.cfg bytes) s

/-- `F9` (R67, R68, R74 `FRAME`): a whole short frame. -/
def execF9 (bytes : Bytes) (s : State) : Host.Outcome State Fault Refusal := runTrain (frameTrain s.cfg bytes) s

end Sys2Proof.Machine
end

