-- ==== Sys2Proof/Machine/Dispatch.lean ====
section
/-! DEFINITION. Dispatch: one arm per row of the opcode table. -/
namespace Sys2Proof.Machine

def exec (i : Instr) (s : State) : Host.Outcome State Fault Refusal :=
  match i with
  | .decIdle a => Sys2Proof.Machine.execDecIdle a s
  | .decBitLo a => Sys2Proof.Machine.execDecBitLo a s
  | .decStartLo a => Sys2Proof.Machine.execDecStartLo a s
  | .decBitShort a => Sys2Proof.Machine.execDecBitShort a s
  | .decBitLong a => Sys2Proof.Machine.execDecBitLong a s
  | .decStartHi a => Sys2Proof.Machine.execDecStartHi a s
  | .decInvalid a => Sys2Proof.Machine.execDecInvalid a s
  | .start => Sys2Proof.Machine.execStart s
  | .short => Sys2Proof.Machine.execShort s
  | .long => Sys2Proof.Machine.execLong s
  | .spacing => Sys2Proof.Machine.execSpacing s
  | .f12 a => Sys2Proof.Machine.execF12 a s
  | .f9 a => Sys2Proof.Machine.execF9 a s
  | .envLine a => Sys2Proof.Machine.execEnvLine a s
  | .tick a => Sys2Proof.Machine.execTick a s
  | .edge => Sys2Proof.Machine.execEdge s
  | .qEnq a => Sys2Proof.Machine.execQEnq a s
  | .qDeq a b => Sys2Proof.Machine.execQDeq a b s
  | .qTryDeq a => Sys2Proof.Machine.execQTryDeq a s
  | .qPeek a => Sys2Proof.Machine.execQPeek a s
  | .qFlush a => Sys2Proof.Machine.execQFlush a s
  | .rxPulse => Sys2Proof.Machine.execRxPulse s
  | .rxTimeout => Sys2Proof.Machine.execRxTimeout s
  | .pushBit a => Sys2Proof.Machine.execPushBit a s
  | .complete a => Sys2Proof.Machine.execComplete a s
  | .noise a => Sys2Proof.Machine.execNoise a s
  | .lenClass a => Sys2Proof.Machine.execLenClass a s
  | .csum a => Sys2Proof.Machine.execCsum a s
  | .validate => Sys2Proof.Machine.execValidate s
  | .finalize a b => Sys2Proof.Machine.execFinalize a b s
  | .arbFrameSeen a => Sys2Proof.Machine.execArbFrameSeen a s
  | .txSched => Sys2Proof.Machine.execTxSched s
  | .txBegin a => Sys2Proof.Machine.execTxBegin a s
  | .txSeg => Sys2Proof.Machine.execTxSeg s
  | .txEnd => Sys2Proof.Machine.execTxEnd s
  | .hostCmd a => Sys2Proof.Machine.execHostCmd a s
  | .hostRxPop => Sys2Proof.Machine.execHostRxPop s
  | .hostRxWait a => Sys2Proof.Machine.execHostRxWait a s
  | .hostSetPassive a => Sys2Proof.Machine.execHostSetPassive a s
  | .hostStatus => Sys2Proof.Machine.execHostStatus s
  | .hostCsum a => Sys2Proof.Machine.execHostCsum a s
  | .reset a => Sys2Proof.Machine.execReset a s
  | .eNoise a => Sys2Proof.Machine.execENoise a s
  | .eChecksum a => Sys2Proof.Machine.execEChecksum a s
  | .eLength a => Sys2Proof.Machine.execELength a s
  | .eOverflow => Sys2Proof.Machine.execEOverflow s
  | .eStarved => Sys2Proof.Machine.execEStarved s
  | .eConfig => Sys2Proof.Machine.execEConfig s
  | .eDomain => Sys2Proof.Machine.execEDomain s
  | .eQdrop a => Sys2Proof.Machine.execEQdrop a s
  | .frameOk a b => Sys2Proof.Machine.execFrameOk a b s
  | .txStart a => Sys2Proof.Machine.execTxStart a s
  | .txDone a => Sys2Proof.Machine.execTxDone a s
  | .cmdDropped a => Sys2Proof.Machine.execCmdDropped a s

end Sys2Proof.Machine
end

