-- ==== Sys2Proof/Machine/Fetch.lean ====
section
/-! DEFINITION. Taking the next operation from the script, and putting one there (log 7, log 8). -/
namespace Sys2Proof.Machine

/-- The next operation of the script, and the state with its bytes taken. -/
def fetch (s : State) : Except DecodeError (Instr × State) :=
  match decode s.cfg s.script with
  | .ok (i, rest) => .ok (i, { s with script := rest })
  | .error e => .error e

/-- What a step adds to an operation's outcome: in a collision, the draw of this step (U1; log 4). DESIGN CHOICE (log 10):
the step of an operation that is not enabled makes the draw as well, and `EDGE` runs if it changed the level; the spec gives
such an operation no step. -/
def settleStep (drawsBefore : Nat) (r : Host.Outcome State Fault Refusal) : Host.Outcome State Fault Refusal :=
  match r with
  | .next t => .next (contendLine drawsBefore t)
  | .fault e => .fault e
  | .refused e => .refused e

/-- `s` with bytes put in front of its script. -/
def pushScript (bytes : Bytes) (s : State) : State := { s with script := bytes ++ s.script }

end Sys2Proof.Machine
end

