-- ==== Sys2Proof/Machine/Step.lean ====
section
/-! DEFINITION. One step of the machine: the next operation of the script is taken, decoded and run. -/
namespace Sys2Proof.Machine

/-- One step. With an empty script nothing is scheduled and nothing happens (log 7). -/
def step (s : State) : Host.Outcome State Fault Refusal :=
  if s.script.isEmpty then .next s
  else
    match fetch s with
    | .ok (i, s1) => settleStep s.line.draws (exec i s1)
    | .error e => .refused (.undecodable e)

/-- `s` with an instruction of the opcode table put where `step` fetches: its bytes, the operand bits above the table's word
all 0, in front of the script (log 7, log 8). -/
def State.withFetchWord (s : State) (nbits w : Nat) : State := pushScript (tableWordInstrBytes s.cfg nbits w) s

end Sys2Proof.Machine
end

