-- ==== Sys2Proof/Safety.lean ====
section
/-! DEFINITION. What a safe state of the block is, in the spec's own terms: the invariants that every step keeps (spec
10_state.md R18, R20, R29, R30; 20_memory.md R43; 40_pulse_capture.md R85; 41_decoder.md R108; 42_validator.md R129). -/
namespace Sys2Proof.Machine

/-- The decoder invariants R18 (a), (b), (d) and R108. -/
structure DecSafe (d : Dec) : Prop where
  bufWf : Memory.wf d.buf = true
  nbytes_le : d.nbytes ≤ 12
  nbits_le : d.nbits ≤ 7
  cur_lt : d.cur.toNat < 2 ^ d.nbits
  not_complete : d.state ≠ .complete
  idle_empty : d.state = .idle → d.nbytes = 0 ∧ d.nbits = 0 ∧ d.cur = 0 ∧ d.phase ≠ .phBitLow

/-- The line is released exactly while Receiving (R20, R30), and reads as R31 says. -/
structure LineSafe (s : State) : Prop where
  receiving_input : s.arb.mode = .receiving → s.line.dir = .input
  transmitting_output : s.arb.mode = .transmitting → s.line.dir = .output
  level_input : s.line.dir = .input → s.line.level = s.line.ext
  level_output : s.line.dir = .output → s.line.ext = high → s.line.level = s.line.out
  captured : s.cfg.pinConfigured = true → s.cap.lastLevel = s.line.level

/-- The sequencer invariants of R29, while Transmitting; the receiver is then idle. -/
structure SeqSafe (s : State) : Prop where
  pin : s.cfg.pinConfigured = true
  legal : legalLen s.seq.frame.bytes.length = true
  rep_lt : s.seq.rep < s.cfg.repeatCount
  pos_le : s.seq.pos ≤ lastSeg s.seq.frame.bytes
  out_eq : s.line.out = (seg s.cfg s.seq.frame.bytes s.seq.pos).1
  now_le : s.now ≤ s.seq.deadline
  dec_idle : s.dec.state = .idle

/-- The queues are within capacity (R43) and hold what they may hold (R26, R27, R182). -/
structure QueueSafe (s : State) : Prop where
  pq_le : s.pq.length ≤ s.cfg.pqDepth
  rxq_le : s.rxq.length ≤ s.cfg.rxqDepth
  txq_le : s.txq.length ≤ s.cfg.txqDepth
  received : s.rxq.all receivedOk = true
  commands : s.txq.all commandOk = true

/-- A stored time stamp is an earlier value of `now` (R129). -/
def pastStamp (now : Nat) : Option Nat → Prop
  | none => True
  | some t => t ≤ now

/-- Time stays in range (R6) and every stored time stamp is an earlier value of it (R129). -/
structure TimeSafe (s : State) : Prop where
  now_le : s.now ≤ timeMax
  lastEdge_le : s.cap.lastEdge ≤ s.now
  tReset_le : s.arb.tReset ≤ s.now
  heater_past : pastStamp s.now s.arb.lastSeenHeater
  controller_past : pastStamp s.now s.arb.lastSeenController
  localTx_past : pastStamp s.now s.arb.lastLocalTx

/-- With no pin bound the receive side is disabled: no pulse, no frame in flight, none received (R85). -/
structure DisabledSafe (s : State) : Prop where
  pq_empty : s.pq = []
  rxq_empty : s.rxq = []
  dec_idle : s.dec.state = .idle
  dec_phase : s.dec.phase = .phNone
  heater_none : s.arb.lastSeenHeater = none
  controller_none : s.arb.lastSeenController = none

/-- The invariant of the whole block. -/
structure BlockInv (s : State) : Prop where
  cfg : cfgWf s.cfg = true
  cfgErr : s.arb.cfgErr = !s.cfg.pinConfigured
  disabled : s.cfg.pinConfigured = false → DisabledSafe s
  dec : DecSafe s.dec
  line : LineSafe s
  seq : s.arb.mode = .transmitting → SeqSafe s
  queue : QueueSafe s
  time : TimeSafe s

end Sys2Proof.Machine
end

