-- ==== Sys2Proof/Certificates/Slice0/Obligations.lean ====
section
/-! DEFINITION. The statements for the provers, from the numbered rules of spec/. `Sys2Proof.Stated` holds the few words they
share; every statement is a `def Obligations.<Name> : Prop`. -/

namespace Sys2Proof.Stated
open Sys2Proof.Machine

/-- The next state in which the operation waited: only what it answers is written. That an operation which is not enabled
is such a step is the model's choice (log 10). -/
def waited (s : State) : Host.Outcome State Fault Refusal := .next { s with out := { s.out with result := .notEnabled } }

/-- Operations run one after the other, stopping at the first that has no next state. -/
def runAll : List Instr → State → Host.Outcome State Fault Refusal
  | [], s => .next s
  | i :: is, s =>
    match exec i s with
    | .next t => runAll is t
    | .fault e => .fault e
    | .refused r => .refused r

/-- A pulse train fed to the block as R73 says: for each pulse in turn `enq(PQ, pulse)`, then `RX_PULSE`. -/
def fed (ps : List Pulse) : List Instr := ps.flatMap (fun p => [.qEnq (.pulse p), .rxPulse])

/-- The other talkers drive the segments on the line, each for its duration, and RX runs after each transition. -/
def driven (segs : List (Level × Nat)) : List Instr := segs.flatMap (fun g => [.envLine g.1, .rxPulse, .tick g.2])

/-- The boundary steps of a transmission with these segment durations: time passes, then the next segment begins, and at
the end of the last one the line is released (R165, R166). -/
def boundaries : List Nat → List Instr
  | [] => []
  | [d] => [.tick d, .txEnd]
  | d :: ds => .tick d :: .txSeg :: boundaries ds

/-- Segments with their start and end times, the first starting at `t` (R165). -/
def stamped : Nat → List (Level × Nat) → List Segment
  | _, [] => []
  | t, g :: gs => ⟨g.1, t, t + g.2⟩ :: stamped (t + g.2) gs

/-- A segment of the waveform as the pulse a receiver captures. -/
def pulseOf (g : Level × Nat) : Pulse := ⟨g.1, sat32 g.2⟩

/-- The event an enqueue adds to the log (R44, R203). -/
def evicted (q : QueueId) (full : Bool) (now : Nat) : List LogEntry := if full then [⟨.qdrop q, now⟩] else []

/-- The classes of a frame's pulses up to and with the terminator (R68, R64), for the bits `bs` in the order of the wire. -/
def trainClasses (longBit : Bool) (bs : List Bool) : List PulseClass :=
  [.startLo, .startHi] ++ bs.flatMap (fun v => [.bitLo, if v = longBit then .bitLong else .bitShort]) ++ [.bitLo]

/-- The bits of a byte sequence in the order of the wire: byte 0 first, bit 7 first (R41, R162). -/
def wireBits (bytes : Bytes) : List Bool :=
  bytes.flatMap (fun b => [b.getLsbD 7, b.getLsbD 6, b.getLsbD 5, b.getLsbD 4, b.getLsbD 3, b.getLsbD 2, b.getLsbD 1,
    b.getLsbD 0])

/-- The table of R112: the next state and phase for a class; `full` says that 12 bytes are complete. -/
def nextDecoder (full : Bool) : DecState → Phase → PulseClass → DecState × Phase
  | .idle, _, .startLo => (.idle, .phStartLow)
  | .idle, .phStartLow, .startHi => (.started, .phNone)
  | .idle, _, _ => (.idle, .phNone)
  | .started, .phNone, .startLo => (.started, .phStartLow)
  | .started, .phNone, .bitLo => (.started, .phBitLow)
  | .started, .phBitLow, .bitShort => if full then (.idle, .phNone) else (.started, .phNone)
  | .started, .phBitLow, .bitLong => if full then (.idle, .phNone) else (.started, .phNone)
  | .started, .phStartLow, .startHi => (.started, .phNone)
  | .started, _, _ => (.idle, .phNone)
  | .complete, ph, _ => (.complete, ph)

/-- A receiver at rest: the invariant holds, a pin is bound (with none nothing is received, R85), the block receives, no
frame or half-symbol is pending, `PQ` is empty. -/
structure Resting (s : State) : Prop where
  inv : BlockInv s
  pin : s.cfg.pinConfigured = true
  receiving : s.arb.mode = .receiving
  idle : s.dec.state = .idle
  phase : s.dec.phase = .phNone
  drained : s.pq = []

end Sys2Proof.Stated

section Statements
open Sys2Proof Sys2Proof.Machine Sys2Proof.Stated

/-! ### Encoding and stepping -/

/-- Decoding an encoded well-formed instruction gives it back, whatever follows it; the operand layout is the model's
(log 8). -/
def Obligations.DecodeOfEncode : Prop :=
  ∀ (c : Cfg) (i : Instr) (rest : Bytes), cfgWf c = true → i.wf c = true → decode c (encode c i ++ rest) = .ok (i, rest)

/-- Words of the spec decode to the row they stand for: pulse words of R61, a symbol of R62, script numbers of R72, an
event code of R205, the frames of 95_test_vectors.md. -/
def Obligations.SpecWordsDecode : Prop :=
  decodeTableWord 33 0x000002328 = some (.decStartLo ⟨low, 9000⟩) ∧
  decodeTableWord 33 0x100001388 = some (.decStartHi ⟨high, 5000⟩) ∧
  decodeTableWord 33 0x1000186A0 = some (.decIdle ⟨high, 100000⟩) ∧
  decodeTableWord 66 0x0000007D100000BB8 = some .long ∧
  decodeTableWord 8 0x20 = some .rxPulse ∧
  decodeTableWord 8 0x32 = some .txSeg ∧
  decodeTableWord 8 0x44 = some .hostStatus ∧
  decodeTableWord 8 0x05 = some .eStarved ∧
  decodeTableWord 72 0xD210203040506070C0 = some (.f9 [0xD2, 0x10, 0x20, 0x30, 0x40, 0x50, 0x60, 0x70, 0xC0]) ∧
  decodeTableWord 96 0x810102030405060708090AB8 =
    some (.f12 [0x81, 0x01, 0x02, 0x03, 0x04, 0x05, 0x06, 0x07, 0x08, 0x09, 0x0A, 0xB8])

/-- A step runs the instruction at the head of the script, with its bytes taken; what it adds is the draw of a contended
line (`settleStep`, log 4), which is nothing on a line nobody contends. An empty script changes nothing (log 7), and bytes
that are no instruction are refused by name (log 8). -/
def Obligations.StepRunsTheDecodedInstruction : Prop :=
  ∀ s : State,
    (s.script = [] → step s = .next s) ∧
    (∀ i rest, decode s.cfg s.script = .ok (i, rest) → i.wf s.cfg = true →
      step s = settleStep s.line.draws (exec i { s with script := rest }) ∧
      ∀ t, exec i { s with script := rest } = .next t → contention t = false → step s = .next t) ∧
    (∀ e, s.script ≠ [] → decode s.cfg s.script = .error e → step s = .refused (.undecodable e))

/-- In a step that ends with the line contended exactly one draw is made and is the level; in any other step none is
(log 4: the draw of R31 is per step; log 10: the step of an operation that is not enabled makes it too). -/
def Obligations.OneDrawPerContendedStep : Prop :=
  ∀ s t : State, s.script ≠ [] → step s = .next t →
    (contention t = true → t.line.draws = s.line.draws + 1 ∧ t.line.level = Config.lineDraw s.line.draws) ∧
    (contention t = false → t.line.draws = s.line.draws)

/-! ### The classifier -/

/-- The classifier of R94 by its windows, for every well-formed configuration: the order of the tests does not matter, and
a pulse in no window of its level is `INVALID`. The ends of a window are inside it, and, where the windows of one level are
separated by more than one microsecond as R95 (c) says, a duration one microsecond outside a window and below the idle
threshold is `INVALID` (R95); R5 also admits windows only one microsecond apart (log 26). -/
def Obligations.ClassifierWindows : Prop :=
  ∀ (c : Cfg) (p : Pulse), cfgWf c = true →
    (classify c p = .idle ↔ c.idleTimeout ≤ p.duration.toNat) ∧
    (classify c p = .bitLo ↔ p.level = low ∧ c.bitLo - c.tol ≤ p.duration.toNat ∧ p.duration.toNat ≤ c.bitLo + c.tol) ∧
    (classify c p = .startLo ↔
      p.level = low ∧ c.startLo - c.tol ≤ p.duration.toNat ∧ p.duration.toNat ≤ c.startLo + c.tol) ∧
    (classify c p = .bitShort ↔
      p.level = high ∧ c.shortHi - c.tol ≤ p.duration.toNat ∧ p.duration.toNat ≤ c.shortHi + c.tol) ∧
    (classify c p = .bitLong ↔
      p.level = high ∧ c.longHi - c.tol ≤ p.duration.toNat ∧ p.duration.toNat ≤ c.longHi + c.tol) ∧
    (classify c p = .startHi ↔
      p.level = high ∧ c.startHi - c.tol ≤ p.duration.toNat ∧ p.duration.toNat ≤ c.startHi + c.tol) ∧
    (classify c p = .invalid ↔ p.duration.toNat < c.idleTimeout ∧
      ∀ target ∈ (if p.level = low then [c.bitLo, c.startLo] else [c.shortHi, c.longHi, c.startHi]),
        p.duration.toNat < target - c.tol ∨ target + c.tol < p.duration.toNat) ∧
    (c.bitLo + c.tol + 1 < c.startLo - c.tol → c.shortHi + c.tol + 1 < c.longHi - c.tol →
      c.longHi + c.tol + 1 < c.startHi - c.tol →
      ∀ target ∈ (if p.level = low then [c.bitLo, c.startLo] else [c.shortHi, c.longHi, c.startHi]),
      p.duration.toNat + c.tol + 1 = target ∨ p.duration.toNat = target + c.tol + 1 →
      p.duration.toNat < c.idleTimeout → classify c p = .invalid)

/-- The table of R63: the windows at the defaults; every duration outside them is INVALID. -/
def Obligations.DefaultWindows : Prop :=
  ∀ (lv : Level) (d : Duration),
    let n := d.toNat
    classify Config.default ⟨lv, d⟩ =
      if 50000 ≤ n then .idle
      else if lv = low then
        (if 400 ≤ n ∧ n ≤ 1600 then .bitLo else if 8400 ≤ n ∧ n ≤ 9600 then .startLo else .invalid)
      else
        (if 400 ≤ n ∧ n ≤ 1600 then .bitShort else if 2400 ≤ n ∧ n ≤ 3600 then .bitLong
         else if 4400 ≤ n ∧ n ≤ 5600 then .startHi else .invalid)

/-! ### The line, its capture, and time -/

/-- The level of R31 after the direction, the drive or the others' level may have changed, and the capture of R80: `EDGE`
runs, with a pin bound, if the level changed (and differs from the level last captured, R81). -/
def Obligations.LineSettles : Prop :=
  ∀ s : State, ∃ l : Line,
    (s.line.dir = .input → l = { s.line with level := s.line.ext }) ∧
    (s.line.dir = .output → s.line.ext = high → l = { s.line with level := s.line.out }) ∧
    (s.line.dir = .output → s.line.ext = low →
      l = { s.line with level := Config.lineDraw s.line.draws, draws := s.line.draws + 1 }) ∧
    settleLine s =
      if l.level ≠ s.line.level ∧ l.level ≠ s.cap.lastLevel ∧ s.cfg.pinConfigured = true then
        { s with
          line := l
          cap := ⟨l.level, s.now⟩
          pq := enqList s.cfg.pqDepth s.pq ⟨s.cap.lastLevel, sat32 (s.now - s.cap.lastEdge)⟩
          out := { s.out with
            log := s.out.log ++ evicted .pq (decide (s.pq.length = s.cfg.pqDepth)) s.now
            wakes := s.out.wakes + 1 } }
      else { s with line := l }

/-- `ENV_LINE(v)` (R82), for a level not yet imposed: the others' level is written and the line settles. On a line the block
reads, with a pin bound, the elapsing pulse is captured; with no pin nothing is. -/
def Obligations.EnvLine : Prop :=
  ∀ (v : Level) (s : State), v ≠ s.line.ext →
    exec (.envLine v) s = .next (settleLine { s with line := { s.line with ext := v } }) ∧
    (s.line.dir = .input → s.line.level = s.line.ext → s.cap.lastLevel = s.line.level →
      s.cfg.pinConfigured = true → s.pq.length < s.cfg.pqDepth →
      exec (.envLine v) s = .next { s with
        line := { s.line with ext := v, level := v }
        cap := ⟨v, s.now⟩
        pq := s.pq ++ [⟨s.cap.lastLevel, sat32 (s.now - s.cap.lastEdge)⟩]
        out := { s.out with wakes := s.out.wakes + 1 } }) ∧
    (s.line.dir = .input → s.cfg.pinConfigured = false →
      exec (.envLine v) s = .next { s with line := { s.line with ext := v, level := v } })

/-- `TICK(dt)` (R83): time advances and nothing else changes; beyond `2^64 - 1` it is refused (R6, U2). While
Transmitting it never passes the segment boundary: time does not advance where `now + dt` lies beyond `SEQ.deadline`. -/
def Obligations.Tick : Prop :=
  ∀ (dt : Nat) (s : State), 0 < dt →
    ((s.arb.mode = .transmitting → s.now + dt ≤ s.seq.deadline) →
      (s.now + dt ≤ 18446744073709551615 → exec (.tick dt) s = .next { s with now := s.now + dt }) ∧
      (18446744073709551615 < s.now + dt → exec (.tick dt) s = .refused .timeBeyondRange)) ∧
    (s.arb.mode = .transmitting → s.seq.deadline < s.now + dt → ∀ t, exec (.tick dt) s = .next t → t.now = s.now)

/-- `EDGE` (R81), with a pin bound and a level other than the one last captured: one transition is captured. -/
def Obligations.Edge : Prop :=
  ∀ s : State, s.cfg.pinConfigured = true → s.line.level ≠ s.cap.lastLevel →
    exec .edge s = .next { s with
      pq := enqList s.cfg.pqDepth s.pq ⟨s.cap.lastLevel, sat32 (s.now - s.cap.lastEdge)⟩
      cap := ⟨s.line.level, s.now⟩
      out := { s.out with
        log := s.out.log ++ evicted .pq (decide (s.pq.length = s.cfg.pqDepth)) s.now
        wakes := s.out.wakes + 1 } }

/-- What any operation may move: time by `TICK` only, the configuration and `ARB.t_reset` by `RESET` only (R4, R25, R83);
and the log only grows, by events that carry the time of the step (R195). -/
def Obligations.TimeConfigurationAndLog : Prop :=
  ∀ (i : Instr) (s t : State), exec i s = .next t →
    (t.now = s.now ∨ ∃ dt, i = .tick dt ∧ t.now = s.now + dt) ∧
    (t.cfg = s.cfg ∨ ∃ c, i = .reset (some c) ∧ t.cfg = c) ∧
    (t.arb.tReset = s.arb.tReset ∨ ∃ c, i = .reset c ∧ t.arb.tReset = s.now) ∧
    ∃ new, t.out.log = s.out.log ++ new ∧ ∀ e ∈ new, e.time = s.now

/-! ### The queues -/

/-- `enq` of R44, of a value of the queue's type: at capacity the oldest entry goes first and `E_QDROP` is logged; the value
is then the newest entry. With no pin nothing enters `PQ` and `RXQ` (R85; log 25). -/
def Obligations.QueueEnqueue : Prop :=
  ∀ s : State,
    (∀ p, s.cfg.pinConfigured = true → exec (.qEnq (.pulse p)) s = .next { s with
      pq := (if s.pq.length = s.cfg.pqDepth then s.pq.tail else s.pq) ++ [p]
      out := { s.out with log := s.out.log ++ evicted .pq (decide (s.pq.length = s.cfg.pqDepth)) s.now } }) ∧
    (∀ f, receivedOk f = true → s.cfg.pinConfigured = true → exec (.qEnq (.received f)) s = .next { s with
      rxq := (if s.rxq.length = s.cfg.rxqDepth then s.rxq.tail else s.rxq) ++ [f]
      out := { s.out with log := s.out.log ++ evicted .rxq (decide (s.rxq.length = s.cfg.rxqDepth)) s.now } }) ∧
    (∀ f, commandOk f = true → exec (.qEnq (.command f)) s = .next { s with
      txq := (if s.txq.length = s.cfg.txqDepth then s.txq.tail else s.txq) ++ [f]
      out := { s.out with log := s.out.log ++ evicted .txq (decide (s.txq.length = s.cfg.txqDepth)) s.now } })

/-- `deq`, `trydeq`, `peek` and `flush` of R45 to R48 on the three queues: the oldest entry is removed and returned; on an
empty queue `trydeq` answers none, and `deq` does where it is cancelled, which only `RXQ` can be (R49). A frame that leaves
`RXQ` is one the host took (R32). `peek` removes nothing; `flush` empties the queue. That the rows run in every state on every
queue, where R48 and R72 limit `peek` and `flush`, is log 11; that the cancel input is an operand is log 16. -/
def Obligations.QueueRead : Prop :=
  ∀ (s : State) (cancel : Bool),
    (∀ p rest, s.pq = p :: rest →
      let t : State := { s with pq := rest, out := { s.out with result := .entry (some (.pulse p)) } }
      exec (.qDeq .pq cancel) s = .next t ∧ exec (.qTryDeq .pq) s = .next t) ∧
    (∀ f rest, s.rxq = f :: rest →
      let t : State := { s with
        rxq := rest, out := { s.out with taken := s.out.taken ++ [f], result := .entry (some (.received f)) } }
      exec (.qDeq .rxq cancel) s = .next t ∧ exec (.qTryDeq .rxq) s = .next t) ∧
    (∀ f rest, s.txq = f :: rest →
      let t : State := { s with txq := rest, out := { s.out with result := .entry (some (.command f)) } }
      exec (.qDeq .txq cancel) s = .next t ∧ exec (.qTryDeq .txq) s = .next t) ∧
    (s.pq = [] → exec (.qTryDeq .pq) s = .next { s with out := { s.out with result := .entry none } }) ∧
    (s.rxq = [] → exec (.qDeq .rxq true) s = .next { s with out := { s.out with result := .entry none } } ∧
      exec (.qTryDeq .rxq) s = .next { s with out := { s.out with result := .entry none } }) ∧
    (s.txq = [] → exec (.qTryDeq .txq) s = .next { s with out := { s.out with result := .entry none } }) ∧
    exec (.qPeek .pq) s = .next { s with out := { s.out with result := .entry (s.pq.head?.map .pulse) } } ∧
    exec (.qPeek .rxq) s = .next { s with out := { s.out with result := .entry (s.rxq.head?.map .received) } } ∧
    exec (.qPeek .txq) s = .next { s with out := { s.out with result := .entry (s.txq.head?.map .command) } } ∧
    exec (.qFlush .pq) s = .next { s with pq := [] } ∧
    exec (.qFlush .rxq) s = .next { s with rxq := [] } ∧
    exec (.qFlush .txq) s = .next { s with txq := [] }

/-- Enqueues on a bounded queue of entries of any type, so on each of the three, keep the newest entries, in order: what is
left after any number of them is the last `C` of all (R44, R52 (a) to (c); scenario C of the source). -/
def Obligations.BoundedQueueKeepsTheNewest : Prop :=
  ∀ (α : Type) (cap : Nat) (q vs : List α), 1 ≤ cap → q.length ≤ cap →
    vs.foldl (enqList cap) q = (q ++ vs).drop ((q ++ vs).length - cap)

/-! ### The decoder -/

/-- The shared operations write exactly these registers: `begin_frame` and `reset_idle` (R97), and `raise` and `log`, which
append the event with the time of the step and redirect nothing (R196, R209). -/
def Obligations.HelpersWriteTheseRegisters : Prop :=
  ∀ s : State,
    beginFrame s = { s with dec := ⟨s.dec.buf, 0, 0, 0, .started, .phNone⟩ } ∧
    resetIdle s = { s with dec := ⟨s.dec.buf, 0, 0, 0, .idle, .phNone⟩ } ∧
    (∀ ph, setPhase ph s = { s with dec := { s.dec with phase := ph } }) ∧
    (∀ ev, raise ev s = { s with out := { s.out with log := s.out.log ++ [⟨ev, s.now⟩] } })

/-- `DEC_START_LO` and `DEC_START_HI` (R98, R99), in every phase, while Receiving with a pin bound (R96, R85). -/
def Obligations.DecodeStartMarker : Prop :=
  ∀ (p : Pulse) (s : State), s.arb.mode = .receiving → s.cfg.pinConfigured = true →
    (s.dec.state = .idle → exec (.decStartLo p) s = .next (setPhase .phStartLow s)) ∧
    (s.dec.state = .started →
      exec (.decStartLo p) s = .next (match s.dec.phase with
        | .phNone => setPhase .phStartLow s
        | .phBitLow => resetIdle (raise (.noise .startLo .phBitLow) s)
        | .phStartLow => resetIdle (raise (.noise .startLo .phStartLow) s))) ∧
    (s.dec.state = .idle →
      exec (.decStartHi p) s = .next (match s.dec.phase with
        | .phStartLow => beginFrame s
        | .phNone => setPhase .phNone s
        | .phBitLow => setPhase .phNone s)) ∧
    (s.dec.state = .started →
      exec (.decStartHi p) s = (match s.dec.phase with
        | .phStartLow => exec (.complete .restart) s
        | .phNone => .next (resetIdle (raise (.noise .startHi .phNone) s))
        | .phBitLow => .next (resetIdle (raise (.noise .startHi .phBitLow) s))))

/-- `DEC_BIT_LO`, `DEC_BIT_SHORT` and `DEC_BIT_LONG` (R100, R101, R102), in every phase, while Receiving with a pin
bound (R96, R85): a long high half after a low half pushes `LONG_BIT_VALUE`, a short one the other value. -/
def Obligations.DecodeBit : Prop :=
  ∀ (p : Pulse) (s : State), s.arb.mode = .receiving → s.cfg.pinConfigured = true →
    (s.dec.state = .idle →
      exec (.decBitLo p) s = .next (setPhase .phNone s) ∧ exec (.decBitShort p) s = .next (setPhase .phNone s) ∧
      exec (.decBitLong p) s = .next (setPhase .phNone s)) ∧
    (s.dec.state = .started → s.dec.phase = .phNone →
      exec (.decBitLo p) s = .next (setPhase .phBitLow s) ∧
      exec (.decBitShort p) s = .next (resetIdle (raise (.noise .bitShort .phNone) s)) ∧
      exec (.decBitLong p) s = .next (resetIdle (raise (.noise .bitLong .phNone) s))) ∧
    (s.dec.state = .started → s.dec.phase = .phBitLow →
      exec (.decBitLo p) s = .next (resetIdle (raise (.noise .bitLo .phBitLow) s)) ∧
      exec (.decBitShort p) s = .next (setPhase .phNone (pushBitOp (!s.cfg.longBit) s)) ∧
      exec (.decBitLong p) s = .next (setPhase .phNone (pushBitOp s.cfg.longBit s))) ∧
    (s.dec.state = .started → s.dec.phase = .phStartLow →
      exec (.decBitLo p) s = .next (resetIdle (raise (.noise .bitLo .phStartLow) s)) ∧
      exec (.decBitShort p) s = .next (resetIdle (raise (.noise .bitShort .phStartLow) s)) ∧
      exec (.decBitLong p) s = .next (resetIdle (raise (.noise .bitLong .phStartLow) s)))

/-- `DEC_IDLE` and `DEC_INVALID` (R103, R110), while Receiving with a pin bound (R96, R85): ignored in Idle; in Started,
whatever the phase, the one completes the frame and the other discards it. -/
def Obligations.DecodeIdleAndInvalid : Prop :=
  ∀ (p : Pulse) (s : State), s.arb.mode = .receiving → s.cfg.pinConfigured = true →
    (s.dec.state = .idle →
      exec (.decIdle p) s = .next (setPhase .phNone s) ∧ exec (.decInvalid p) s = .next (setPhase .phNone s)) ∧
    (s.dec.state = .started →
      exec (.decIdle p) s = .next (completeOp .timeout s) ∧ exec (.decIdle p) s = exec (.complete .timeout) s ∧
      exec (.decInvalid p) s = .next (resetIdle (raise (.noise .invalid s.dec.phase) s)))

/-- `RX_PULSE` (R96) on a queue that is not empty: the oldest pulse is taken; Receiving, the decoder operation of its
class runs, and it is the row of that class wherever a pin is bound (R85); Transmitting, it is discarded and nothing
else changes. -/
def Obligations.RxPulse : Prop :=
  ∀ (s : State) (p : Pulse) (rest : List Pulse), s.pq = p :: rest →
    (s.arb.mode = .transmitting → exec .rxPulse s = .next { s with pq := rest }) ∧
    (s.arb.mode = .receiving →
      exec .rxPulse s = .next (decodeClass (classify s.cfg p) { s with pq := rest }) ∧
      (s.cfg.pinConfigured = true → exec .rxPulse s = exec (match classify s.cfg p with
        | .startLo => .decStartLo p
        | .startHi => .decStartHi p
        | .bitLo => .decBitLo p
        | .bitShort => .decBitShort p
        | .bitLong => .decBitLong p
        | .idle => .decIdle p
        | .invalid => .decInvalid p) { s with pq := rest }))

/-- The whole transition table of R112: the next state and phase for every current state, phase and class, and the column
of `RX_TIMEOUT`, which is not enabled in Idle. -/
def Obligations.DecoderTransitionTable : Prop :=
  ∀ s : State, s.arb.mode = .receiving → s.dec.state ≠ .complete →
    (∀ p rest, s.pq = p :: rest → ∃ t, exec .rxPulse s = .next t ∧
      (t.dec.state, t.dec.phase) =
        nextDecoder (decide (s.dec.nbytes = 12)) s.dec.state s.dec.phase (classify s.cfg p)) ∧
    (s.dec.state = .started → s.pq = [] → s.cfg.idleTimeout ≤ s.now - s.cap.lastEdge →
      ∃ t, exec .rxTimeout s = .next t ∧ (t.dec.state, t.dec.phase) = (.idle, .phNone)) ∧
    (s.dec.state = .idle → timeoutEnabled s = false)

/-- `RX_TIMEOUT` (R111): receiving a frame, with `PQ` empty and the line unchanged for the idle timeout, it runs
`complete(timeout)`; those are its enabling conditions. -/
def Obligations.RxTimeout : Prop :=
  ∀ s : State,
    (timeoutEnabled s = true ↔ s.arb.mode = .receiving ∧ s.dec.state = .started ∧ s.pq = [] ∧
      s.cfg.idleTimeout ≤ s.now - s.cap.lastEdge) ∧
    (s.arb.mode = .receiving → s.dec.state = .started → s.pq = [] → s.cfg.idleTimeout ≤ s.now - s.cap.lastEdge →
      exec .rxTimeout s = .next (completeOp .timeout s) ∧ exec .rxTimeout s = exec (.complete .timeout) s)

/-- `PUSH_BIT` (R104, R105) for a frame in flight: a bit is shifted in from below; the eighth completes a byte of the buffer
and leaves every other byte alone; with 12 bytes complete the bit is not stored and the frame is discarded. -/
def Obligations.PushBit : Prop :=
  ∀ (v : Bool) (s : State), s.arb.mode = .receiving → s.dec.state = .started →
    (s.dec.nbytes = 12 → exec (.pushBit v) s = .next (resetIdle (raise .overflow s))) ∧
    (s.dec.nbytes ≠ 12 → s.dec.nbits ≠ 7 →
      exec (.pushBit v) s = .next { s with
        dec := { s.dec with cur := 2 * s.dec.cur + (if v then 1 else 0), nbits := s.dec.nbits + 1 } }) ∧
    (s.dec.nbytes < 12 → s.dec.nbits = 7 → Memory.wf s.dec.buf = true →
      ∃ buf : Memory,
        exec (.pushBit v) s = .next { s with
          dec := { s.dec with buf := buf, nbytes := s.dec.nbytes + 1, nbits := 0, cur := 0 } } ∧
        Memory.wf buf = true ∧
        ∀ j, bufRead buf j =
          if j = s.dec.nbytes then 2 * s.dec.cur + (if v then 1 else 0) else bufRead s.dec.buf j)

/-- The eight bits of a byte, most significant first, append that byte at index `DEC.nbytes` and nothing else (R41,
R65 (b)). -/
def Obligations.EightBitsAppendTheirByte : Prop :=
  ∀ (b : Byte) (s : State), s.arb.mode = .receiving → s.dec.state = .started → s.dec.nbytes < 12 → s.dec.nbits = 0 →
    s.dec.cur = 0 →
    runAll ((wireBits [b]).map .pushBit) s = .next { s with
      dec := { s.dec with buf := bufWrite s.dec.buf s.dec.nbytes b, nbytes := s.dec.nbytes + 1 } }

/-- `COMPLETE` (R106, R109) for a frame in flight: a whole frame is validated and forwarded as captured, or complemented, or
discarded with `E_CHECKSUM`; any other is discarded with `E_LENGTH` unvalidated; then the decoder is Idle, or Started on a
fresh frame. -/
def Obligations.Complete : Prop :=
  ∀ (cause : EndCause) (s : State), s.arb.mode = .receiving → s.dec.state = .started →
    let after : State → State := fun t => match cause with
      | .timeout => resetIdle t
      | .restart => beginFrame t
    let bytes := candidate s
    ((s.dec.nbytes = 9 ∨ s.dec.nbytes = 12) → s.dec.nbits = 0 →
      (validSum bytes = true → exec (.complete cause) s = .next (after (finalizeOp bytes .controller s))) ∧
      (validSum bytes = false → validSum (complementBytes bytes) = true →
        exec (.complete cause) s = .next (after (finalizeOp (complementBytes bytes) .heater s))) ∧
      (validSum bytes = false → validSum (complementBytes bytes) = false →
        exec (.complete cause) s = .next (after (raise (.checksum bytes) s)))) ∧
    (¬ ((s.dec.nbytes = 9 ∨ s.dec.nbytes = 12) ∧ s.dec.nbits = 0) →
      exec (.complete cause) s = .next (after (raise (.length s.dec.nbytes s.dec.nbits) s)))

/-- `NOISE` and the row `E_NOISE` (R107, R197) for a frame in flight: the event with the class and the phase is logged, the
frame is discarded unvalidated, and nothing else changes. That the class is an operand is log 21, and that the two rows run
alone, whatever the class, and `E_NOISE` with its recovery, is log 11 and log 13. -/
def Obligations.Noise : Prop :=
  ∀ (c : PulseClass) (s : State), s.arb.mode = .receiving → s.dec.state = .started →
    let t : State := { s with
      dec := ⟨s.dec.buf, 0, 0, 0, .idle, .phNone⟩
      out := { s.out with log := s.out.log ++ [⟨.noise c s.dec.phase, s.now⟩] } }
    exec (.noise c) s = .next t ∧ exec (.eNoise c) s = .next t

/-- While Transmitting no operation changes a decoder register or `SEQ.frame`, but for the end of the transmission and
`RESET`: no pulse is decoded and the frame being sent is not replaced (R52 (e), R96, R170). -/
def Obligations.TransmittingBlindsTheReceiver : Prop :=
  ∀ (i : Instr) (s t : State), s.arb.mode = .transmitting → exec i s = .next t →
    i = .txEnd ∨ (∃ c, i = .reset c) ∨ (t.dec = s.dec ∧ t.seq.frame = s.seq.frame)

/-- Decoding a well-formed train (R114): any pulses whose classes are those of a frame of 9 or 12 bytes, fed to a decoder in
(Idle, PhNone), leave it in (Started, PhBitLow) with those bytes in the buffer, and nothing else changed; a pulse of class
`IDLE`, or `RX_TIMEOUT`, then completes the frame. The nominal durations are such a train. -/
def Obligations.TrainFillsTheBuffer : Prop :=
  ∀ (s : State) (bytes : Bytes), Resting s → legalLen bytes.length = true →
    (∀ ps : List Pulse, ps.map (classify s.cfg) = trainClasses s.cfg.longBit (wireBits bytes) →
      ∃ buf : Memory,
        let t : State := { s with dec := ⟨buf, bytes.length, 0, 0, .started, .phBitLow⟩ }
        runAll (fed ps) s = .next t ∧
        (∀ i, i < bytes.length → bufRead buf i = bytes.getD i 0) ∧
        (∀ gap, classify s.cfg gap = .idle → runAll (fed [gap]) t = .next (completeOp .timeout t)) ∧
        (s.cfg.idleTimeout ≤ s.now - s.cap.lastEdge → exec .rxTimeout t = .next (completeOp .timeout t))) ∧
    (startSymbol s.cfg ++ bytes.flatMap (byteTrain s.cfg) ++ [lowPulse s.cfg.bitLo]).map (classify s.cfg) =
      trainClasses s.cfg.longBit (wireBits bytes)

/-! ### Wire symbols and whole frames -/

/-- The rows of formats W, F12 and F9 feed their pulses (R62, R73, R74): `enq(PQ, pulse)` then `RX_PULSE`, pulse by
pulse, each with its nominal duration, where a pin is bound (R85; log 25). That a row means its train, fed at one `now`,
is log 12. -/
def Obligations.SymbolAndFrameRowsFeedTheirPulses : Prop :=
  ∀ s : State, s.cfg.pinConfigured = true →
    let c := s.cfg
    let lo := fun n => (⟨low, sat32 n⟩ : Pulse)
    let hi := fun n => (⟨high, sat32 n⟩ : Pulse)
    let feeds := fun (i : Instr) (ps : List Pulse) => exec i s = .next (feedTrain ps s) ∧ exec i s = runAll (fed ps) s
    feeds .start [lo c.startLo, hi c.startHi] ∧
    feeds .short [lo c.bitLo, hi c.shortHi] ∧
    feeds .long [lo c.bitLo, hi c.longHi] ∧
    feeds .spacing [lo c.bitLo, hi c.frameGap] ∧
    (∀ bytes, feeds (.f9 bytes) (([lo c.startLo, hi c.startHi] ++ (wireBits bytes).flatMap (fun v =>
      [lo c.bitLo, hi (if v = c.longBit then c.longHi else c.shortHi)])) ++ [lo c.bitLo, hi c.frameGap])) ∧
    (∀ bytes, feeds (.f12 bytes) (([lo c.startLo, hi c.startHi] ++ (wireBits bytes).flatMap (fun v =>
      [lo c.bitLo, hi (if v = c.longBit then c.longHi else c.shortHi)])) ++ [lo c.bitLo, hi c.frameGap]))

/-- The wire symbols at a receiver with a pin whose `PQ` is empty (R62, R98 to R104; the rows feed their pulses, log
12): the start marker begins a frame, a bit in Started is pushed in the controller's polarity, and the spacing completes
the frame in flight. -/
def Obligations.WireSymbolsInContext : Prop :=
  ∀ s : State, cfgWf s.cfg = true → s.cfg.pinConfigured = true → s.arb.mode = .receiving → s.pq = [] →
    (s.dec.state = .idle → exec .start s = .next (beginFrame s)) ∧
    (s.dec.state = .started → s.dec.phase = .phNone →
      exec .short s = .next (setPhase .phNone (pushBitOp (!s.cfg.longBit) (setPhase .phBitLow s))) ∧
      exec .long s = .next (setPhase .phNone (pushBitOp s.cfg.longBit (setPhase .phBitLow s))) ∧
      exec .spacing s = .next (completeOp .timeout (setPhase .phBitLow s)) ∧
      exec .start s = .next (completeOp .restart (setPhase .phStartLow s)))

/-- Scenarios A and B (R131): a whole frame, fed as a row (log 12) to an idle receiver, ends in `FINALIZE` as captured
with source Controller, or complemented with source Heater, or in `E_CHECKSUM`; the decoder is Idle again and nothing
else changed. -/
def Obligations.WholeFrameIsReceived : Prop :=
  ∀ (s : State) (bytes : Bytes) (i : Instr), Resting s →
    (i = .f12 bytes ∧ bytes.length = 12) ∨ (i = .f9 bytes ∧ bytes.length = 9) →
    ∃ buf : Memory,
      let idle : Dec := ⟨buf, 0, 0, 0, .idle, .phNone⟩
      (validSum bytes = true → exec i s = .next { finalizeOp bytes .controller s with dec := idle }) ∧
      (validSum (complementBytes bytes) = true →
        exec i s = .next { finalizeOp (complementBytes bytes) .heater s with dec := idle }) ∧
      (validSum bytes = false → validSum (complementBytes bytes) = false →
        exec i s = .next { raise (.checksum bytes) s with dec := idle })

/-- A whole frame on the line (R68, R80, R82, R96, R111; program P1): the other talkers drive the waveform of a valid frame
and leave the line high, capture and RX run, and after the idle timeout `RXQ` gains exactly that frame with source
Controller and the time of the timeout; the other registers are as they were or as stated, and the log gains `FRAME_OK`. -/
def Obligations.FrameOnTheLineIsReceived : Prop :=
  ∀ (s : State) (bytes : Bytes), Resting s → s.line.ext = high →
    legalLen bytes.length = true → validSum bytes = true → s.now + durOnce s.cfg bytes ≤ 18446744073709551615 →
    ∃ t, runAll (driven (waveformOnce s.cfg bytes).dropLast ++
        [.envLine high, .rxPulse, .tick s.cfg.idleTimeout, .rxTimeout]) s = .next t ∧
      t.now + s.cfg.frameGap = s.now + durOnce s.cfg bytes + s.cfg.idleTimeout ∧
      t.rxq = enqList s.cfg.rxqDepth s.rxq ⟨bytes, .controller, t.now⟩ ∧
      t.arb = { s.arb with lastSeenController := some t.now } ∧
      t.dec = { t.dec with state := .idle, phase := .phNone, nbytes := 0, nbits := 0, cur := 0 } ∧
      t.pq = [] ∧ t.txq = s.txq ∧ t.line = s.line ∧ t.seq = s.seq ∧ t.cfg = s.cfg ∧
      t.cap.lastLevel = high ∧ t.cap.lastEdge + s.cfg.idleTimeout = t.now ∧
      t.out.log = s.out.log ++ evicted .rxq (decide (s.rxq.length = s.cfg.rxqDepth)) t.now ++
        [⟨.frameOk .controller bytes.length, t.now⟩]

/-- Loop-back (R175): a receiver at rest that is fed the waveform of a valid frame, repeated `N` times, finalizes exactly
`N` frames with those bytes and source Controller, and is at rest again. -/
def Obligations.LoopBack : Prop :=
  ∀ (s : State) (bytes : Bytes) (n : Nat), Resting s → legalLen bytes.length = true → validSum bytes = true →
    ∃ t, runAll (fed ((txWaveform s.cfg bytes n).map pulseOf)) s = .next t ∧
      t.rxq = (List.replicate n ⟨bytes, .controller, s.now⟩).foldl (enqList s.cfg.rxqDepth) s.rxq ∧
      (1 ≤ n → t.arb = { s.arb with lastSeenController := some s.now }) ∧
      t.pq = [] ∧ t.dec.state = .idle ∧ t.dec.phase = .phNone ∧ t.line = s.line ∧ t.now = s.now

/-! ### The validator -/

/-- `LEN_CLASS(n)` (R120): short for 9, long for 12; for other lengths the spec calls the class undefined, and the answer is
the free value of log 5. `CSUM` of a sequence that has neither length answers the free value of log 6. -/
def Obligations.LengthClass : Prop :=
  ∀ s : State,
    exec (.lenClass 9) s = .next { s with out := { s.out with result := .lenClass .short } } ∧
    exec (.lenClass 12) s = .next { s with out := { s.out with result := .lenClass .long } } ∧
    (∀ n, n ≠ 9 → n ≠ 12 →
      exec (.lenClass n) s = .next { s with out := { s.out with result := .lenClass (Config.freeLenClass n) } }) ∧
    (∀ bytes, bytes.length ≠ 9 → bytes.length ≠ 12 →
      exec (.csum bytes) s = .next { s with out := { s.out with result := .byte (Config.freeCsum bytes) } })

/-- `CSUM(B)` (R122): the bytes from `start(n)` to the last but one, summed modulo 256; the last byte is not summed, and of
a short frame the leading byte is not. `HOST_CSUM(bytes)` (R186) answers the same and is refused for other lengths. -/
def Obligations.Checksum : Prop :=
  ∀ s : State,
    (∀ b0 b1 b2 b3 b4 b5 b6 b7 b8 b9 b10 b11 : Byte,
      let long := [b0, b1, b2, b3, b4, b5, b6, b7, b8, b9, b10, b11]
      let short := [b0, b1, b2, b3, b4, b5, b6, b7, b8]
      let answered := fun (b : Byte) => (.next { s with out := { s.out with result := .byte b } } :
        Host.Outcome State Fault Refusal)
      exec (.csum long) s = answered (b0 + b1 + b2 + b3 + b4 + b5 + b6 + b7 + b8 + b9 + b10) ∧
      exec (.csum short) s = answered (b1 + b2 + b3 + b4 + b5 + b6 + b7) ∧
      exec (.hostCsum long) s = exec (.csum long) s ∧ exec (.hostCsum short) s = exec (.csum short) s) ∧
    (∀ bytes, bytes.length ≠ 9 → bytes.length ≠ 12 →
      exec (.hostCsum bytes) s = .refused (.frameLength bytes.length))

/-- At most one polarity is valid (R126), for every sequence of length 9 or 12. -/
def Obligations.NeverValidInBothPolarities : Prop :=
  ∀ bytes : Bytes, bytes.length = 9 ∨ bytes.length = 12 →
    ¬ (validSum bytes = true ∧ validSum (complementBytes bytes) = true)

/-- Source labelling (R127): bytes valid as captured are the controller's; bytes valid only complemented are the heater's
and are replaced by their complement; otherwise there is no frame. So if the heater means `M`, it sends `~M`, and the frame
stored is `M`. -/
def Obligations.EitherPolarityIsRecovered : Prop :=
  ∀ m : Bytes, m.length = 9 ∨ m.length = 12 →
    (validSum m = true → verdict m = some (m, .controller)) ∧
    (validSum (complementBytes m) = true → verdict m = some (complementBytes m, .heater)) ∧
    (validSum m = false → validSum (complementBytes m) = false → verdict m = none) ∧
    (validSum m = true → verdict (complementBytes m) = some (m, .heater))

/-- The checksum byte makes a frame valid (R132). -/
def Obligations.ChecksumMakesAFrameValid : Prop :=
  ∀ bytes : Bytes, bytes.length = 9 ∨ bytes.length = 12 → validSum (bytes.dropLast ++ [csumOf bytes]) = true

/-- `VALIDATE` (R125), called in Complete with a whole frame in the buffer: as captured, else complemented, else
`E_CHECKSUM`. -/
def Obligations.Validate : Prop :=
  ∀ s : State, s.dec.state = .complete → s.dec.nbytes = 9 ∨ s.dec.nbytes = 12 → s.dec.nbits = 0 →
    let bytes := candidate s
    (validSum bytes = true → exec .validate s = .next (finalizeOp bytes .controller s)) ∧
    (validSum bytes = false → validSum (complementBytes bytes) = true →
      exec .validate s = .next (finalizeOp (complementBytes bytes) .heater s)) ∧
    (validSum bytes = false → validSum (complementBytes bytes) = false →
      exec .validate s = .next (raise (.checksum bytes) s))

/-- `FINALIZE(B', src)` (R128) for a valid frame of a talker, with a pin bound (R85; log 25): its time stamp, then the
frame in `RXQ`, then `FRAME_OK`. That the row by itself runs in either mode and for any bytes of its operand, where the spec
reaches it inside `complete` only, while Receiving, is the model's choice (log 11). -/
def Obligations.Finalize : Prop :=
  ∀ (bytes : Bytes) (s : State), legalLen bytes.length = true → validSum bytes = true → s.cfg.pinConfigured = true →
    let f := fun (src : Source) => (⟨bytes, src, s.now⟩ : RawFrame)
    let lines := fun (src : Source) => evicted .rxq (decide (s.rxq.length = s.cfg.rxqDepth)) s.now ++
      [(⟨.frameOk src bytes.length, s.now⟩ : LogEntry)]
    exec (.finalize bytes .controller) s = .next { s with
      arb := { s.arb with lastSeenController := some s.now }
      rxq := enqList s.cfg.rxqDepth s.rxq (f .controller)
      out := { s.out with log := s.out.log ++ lines .controller } } ∧
    exec (.finalize bytes .heater) s = .next { s with
      arb := { s.arb with lastSeenHeater := some s.now }
      rxq := enqList s.cfg.rxqDepth s.rxq (f .heater)
      out := { s.out with log := s.out.log ++ lines .heater } } ∧
    exec (.finalize bytes .controller) s = .next (finalizeOp bytes .controller s) ∧
    exec (.finalize bytes .heater) s = .next (finalizeOp bytes .heater s)

/-! ### The arbiter -/

/-- `ARB_FRAME_SEEN(f)` (R135): the time stamp of the frame's talker is `now`; no other source updates anything. The model's
choices: the row's operand is the frame's source (log 21), and by itself it runs in either mode, also with no frame ended,
where R135 has it called by `FINALIZE` only (log 11). It runs where a pin is bound (R85; log 25). -/
def Obligations.ArbFrameSeen : Prop :=
  ∀ s : State, s.cfg.pinConfigured = true →
    exec (.arbFrameSeen .controller) s = .next { s with arb := { s.arb with lastSeenController := some s.now } } ∧
    exec (.arbFrameSeen .heater) s = .next { s with arb := { s.arb with lastSeenHeater := some s.now } } ∧
    exec (.arbFrameSeen .loc) s = .next s ∧ exec (.arbFrameSeen .unknown) s = .next s

/-- The transmission precondition (R136, R138 to R141), spelled out; the budget and the absence never hold together. -/
def Obligations.TransmissionPrecondition : Prop :=
  ∀ s : State,
    (txAllowed s = true ↔
      s.dec.state ≠ .started ∧
      (∀ t, s.arb.lastLocalTx = some t → s.cfg.minCmdSpacing ≤ s.now - t) ∧
      ((∃ t, s.arb.lastSeenController = some t ∧
          s.now + s.cfg.repeatCount * s.cfg.worstFrame < t + s.cfg.controllerPeriod) ∨
       (∃ t, s.arb.lastSeenController = some t ∧ s.cfg.controllerPeriod < s.now - t) ∨
       (s.arb.lastSeenController = none ∧ s.cfg.controllerPeriod < s.now - s.arb.tReset))) ∧
    (budgetOk s = true ↔ ∃ t, s.arb.lastSeenController = some t ∧
      s.now + s.cfg.repeatCount * s.cfg.worstFrame < t + s.cfg.controllerPeriod) ∧
    ¬ (budgetOk s = true ∧ controllerAbsent s = true)

/-- `TX_SCHED` (R143, R144, R145), while Receiving with a command queued: dropped for want of a pin, left alone in passive
mode, deferred with `E_STARVED` and nothing else changed, or started. -/
def Obligations.TxSched : Prop :=
  ∀ (s : State) (c : RawFrame) (rest : List RawFrame), s.arb.mode = .receiving → s.txq = c :: rest →
    (s.cfg.pinConfigured = false → exec .txSched s = .next { s with
      txq := rest, out := { s.out with log := s.out.log ++ [⟨.cmdDropped c, s.now⟩] } }) ∧
    (s.cfg.pinConfigured = true → s.arb.passive = true → exec .txSched s = .next s) ∧
    (s.cfg.pinConfigured = true → s.arb.passive = false → txAllowed s = false →
      exec .txSched s = .next { s with out := { s.out with log := s.out.log ++
        [⟨.starved (decide (s.dec.state = .started)) (!spacingOk s) (!(budgetOk s || controllerAbsent s)), s.now⟩] } }) ∧
    (s.cfg.pinConfigured = true → s.arb.passive = false → txAllowed s = true →
      exec .txSched s = .next (txBeginOp c { s with txq := rest }))

/-- The guard window (R142): after a controller frame at `t` no transmission starts in `[t + P - X, t + P]`, and the budget
or the absence holds everywhere else; with no controller frame seen, none starts in the first period after reset (R141). -/
def Obligations.GuardWindow : Prop :=
  ∀ (s : State) (c : RawFrame) (rest : List RawFrame),
    s.arb.mode = .receiving → s.txq = c :: rest → s.cfg.pinConfigured = true → s.arb.passive = false →
    let x := s.cfg.repeatCount * s.cfg.worstFrame
    let p := s.cfg.controllerPeriod
    let deferred : State := { s with out := { s.out with log := s.out.log ++
      [⟨.starved (decide (s.dec.state = .started)) (!spacingOk s) true, s.now⟩] } }
    (∀ t, s.arb.lastSeenController = some t → t ≤ s.now →
      (t + p ≤ s.now + x → s.now ≤ t + p → exec .txSched s = .next deferred) ∧
      (s.now + x < t + p ∨ t + p < s.now → (budgetOk s || controllerAbsent s) = true)) ∧
    (s.arb.lastSeenController = none → s.now ≤ s.arb.tReset + p → exec .txSched s = .next deferred)

/-- How `ARB.mode` moves (R17, R20, R21, R173): into Transmitting only by a scheduling pass (or its tail `TX_BEGIN`), with a
pin, active and allowed, so never in passive mode; out of it only by `TX_END` at the end of the last segment, or `RESET`. -/
def Obligations.ModeMoves : Prop :=
  ∀ (i : Instr) (s t : State), exec i s = .next t →
    (s.arb.mode = .receiving → t.arb.mode = .transmitting →
      (i = .txSched ∨ ∃ c, i = .txBegin c) ∧ s.cfg.pinConfigured = true ∧ s.arb.passive = false ∧ txAllowed s = true) ∧
    (s.arb.mode = .transmitting → t.arb.mode = .receiving →
      (i = .txEnd ∧ s.now = s.seq.deadline ∧ s.seq.pos = 16 * s.seq.frame.bytes.length + 3 ∧
        s.seq.rep + 1 = s.cfg.repeatCount) ∨ ∃ c, i = .reset c)

/-! ### The transmitter -/

/-- `TX_BEGIN(c)` (R167) for a command frame when the pass may transmit: the line is taken over and the start marker's low
half begins; a falling edge on a quiet line is captured. That the row by itself sends any command frame of its operand, in
`TXQ` or not, where R143 and R167 send the frame just dequeued, is the model's choice (log 11). -/
def Obligations.TxBegin : Prop :=
  ∀ (c : RawFrame) (s : State), s.arb.mode = .receiving → s.cfg.pinConfigured = true → s.arb.passive = false →
    txAllowed s = true → commandOk c = true →
    let taken : State := { s with
      arb := { s.arb with mode := .transmitting }
      line := { s.line with dir := .output, out := low }
      seq := ⟨c, 0, 0, s.now + s.cfg.startLo⟩
      out := { s.out with
        log := s.out.log ++ [⟨.txStart c, s.now⟩]
        wave := s.out.wave ++ [⟨low, s.now, s.now + s.cfg.startLo⟩] } }
    txBeginOp c s = settleLine taken ∧
    exec (.txBegin c) s = .next (settleLine taken) ∧
    (s.line.ext = high → s.line.level = high → s.cap.lastLevel = high → s.pq.length < s.cfg.pqDepth →
      exec (.txBegin c) s = .next { taken with
        line := { taken.line with level := low }
        cap := ⟨low, s.now⟩
        pq := s.pq ++ [⟨high, sat32 (s.now - s.cap.lastEdge)⟩]
        out := { taken.out with wakes := s.out.wakes + 1 } })

/-- `TX_SEG` (R169) at a segment boundary that is not the end: the next segment of the repetition, or the first of the next
repetition, is driven for its duration and the line settles. -/
def Obligations.TxSeg : Prop :=
  ∀ s : State, s.arb.mode = .transmitting → s.now = s.seq.deadline →
    let bytes := s.seq.frame.bytes
    let last := 16 * bytes.length + 3
    let drive := fun (pos rep : Nat) (g : Level × Nat) => settleLine { s with
      seq := ⟨s.seq.frame, rep, pos, s.now + g.2⟩
      line := { s.line with out := g.1 }
      out := { s.out with wave := s.out.wave ++ [⟨g.1, s.now, s.now + g.2⟩] } }
    (s.seq.pos < last →
      exec .txSeg s = .next (drive (s.seq.pos + 1) s.seq.rep (seg s.cfg bytes (s.seq.pos + 1)))) ∧
    (s.seq.pos = last → s.seq.rep + 1 ≠ s.cfg.repeatCount →
      exec .txSeg s = .next (drive 0 (s.seq.rep + 1) (low, s.cfg.startLo)))

/-- `TX_END` (R171) at the end of the last segment of the last repetition: the line is released, `PQ` flushed, the decoder
idle, capture re-based on the level read, and no `EDGE` runs. -/
def Obligations.TxEnd : Prop :=
  ∀ s : State, s.arb.mode = .transmitting → s.now = s.seq.deadline →
    s.seq.pos = 16 * s.seq.frame.bytes.length + 3 → s.seq.rep + 1 = s.cfg.repeatCount →
    exec .txEnd s = .next { s with
      line := { s.line with dir := .input, level := s.line.ext }
      arb := { s.arb with mode := .receiving, lastLocalTx := some s.now }
      pq := []
      dec := ⟨s.dec.buf, 0, 0, 0, .idle, .phNone⟩
      cap := ⟨s.line.ext, s.now⟩
      out := { s.out with log := s.out.log ++ [⟨.txDone s.seq.frame, s.now⟩] } }

/-- `waveform_once(f)` and `tx_waveform(f, N)` (R164): `16 L + 4` segments, the marker, two per bit in the controller's
polarity, byte 0 and bit 7 first, then terminator and gap; the whole repeated `N` times. -/
def Obligations.WaveformOnce : Prop :=
  ∀ (c : Cfg) (bytes : Bytes),
    waveformOnce c bytes = [(low, c.startLo), (high, c.startHi)] ++
      (wireBits bytes).flatMap (fun v => [(low, c.bitLo), (high, if v = c.longBit then c.longHi else c.shortHi)]) ++
      [(low, c.bitLo), (high, c.frameGap)] ∧
    (waveformOnce c bytes).length = 16 * bytes.length + 4 ∧
    ∀ n, txWaveform c bytes n = (List.replicate n (waveformOnce c bytes)).flatten

/-- `dur_once(f)` (R172): the sum of the segments is the stated formula in the number of long bits, and never exceeds
`WORST_FRAME_US`; `N` repetitions last `N` times as long. -/
def Obligations.DurationOnce : Prop :=
  ∀ (c : Cfg) (bytes : Bytes) (n : Nat), cfgWf c = true → bytes.length = 9 ∨ bytes.length = 12 →
    durOnce c bytes = c.startLo + c.startHi + 8 * bytes.length * (c.bitLo + c.shortHi) +
      (wireBits bytes).count c.longBit * (c.longHi - c.shortHi) + c.bitLo + c.frameGap ∧
    durOnce c bytes ≤ c.worstFrame ∧
    ((txWaveform c bytes n).map Prod.snd).sum = n * durOnce c bytes

/-- A whole transmission (R160, R165, R166, R170): from a scheduling pass that may transmit, on a quiet line, the block
drives exactly `REPEAT_COUNT` waveforms with exact times, ends after `REPEAT_COUNT × dur_once`, and is back in Receiving
with the command gone, `PQ` empty and the line as it was. -/
def Obligations.WholeTransmission : Prop :=
  ∀ (s : State) (c : RawFrame) (rest : List RawFrame), BlockInv s →
    s.arb.mode = .receiving → s.txq = c :: rest → s.cfg.pinConfigured = true → s.arb.passive = false →
    txAllowed s = true → s.line.ext = high →
    s.now + s.cfg.repeatCount * durOnce s.cfg c.bytes ≤ 18446744073709551615 →
    ∃ t, runAll (.txSched :: boundaries ((txWaveform s.cfg c.bytes s.cfg.repeatCount).map Prod.snd)) s = .next t ∧
      t.now = s.now + s.cfg.repeatCount * durOnce s.cfg c.bytes ∧
      t.out.wave = s.out.wave ++ stamped s.now (txWaveform s.cfg c.bytes s.cfg.repeatCount) ∧
      t.arb = { s.arb with lastLocalTx := some t.now } ∧
      t.txq = rest ∧ t.rxq = s.rxq ∧ t.pq = [] ∧ t.cap = ⟨high, t.now⟩ ∧
      t.line = { s.line with out := high } ∧
      t.dec = { s.dec with phase := .phNone }

/-! ### The host -/

/-- `HOST_CMD(bytes)` (R180): queued as a Local frame with the time of the step, in any mode; refused for another length. -/
def Obligations.HostCommand : Prop :=
  ∀ (bytes : Bytes) (s : State),
    (bytes.length = 9 ∨ bytes.length = 12 → exec (.hostCmd bytes) s = .next { s with
      txq := (if s.txq.length = s.cfg.txqDepth then s.txq.tail else s.txq) ++ [⟨bytes, .loc, s.now⟩]
      out := { s.out with log := s.out.log ++ evicted .txq (decide (s.txq.length = s.cfg.txqDepth)) s.now } }) ∧
    (bytes.length ≠ 9 → bytes.length ≠ 12 → exec (.hostCmd bytes) s = .refused (.frameLength bytes.length))

/-- `HOST_RX_POP` and `HOST_RX_WAIT` (R182, R183): the oldest received frame is returned and removed, and it is one that
`RXQ` may hold; on an empty queue the one returns none, and the other where it is cancelled. -/
def Obligations.HostFetch : Prop :=
  ∀ (s : State) (cancel : Bool),
    (∀ f rest, s.rxq = f :: rest →
      let t : State := { s with
        rxq := rest, out := { s.out with taken := s.out.taken ++ [f], result := .frame (some f) } }
      exec .hostRxPop s = .next t ∧ exec (.hostRxWait cancel) s = .next t ∧
      (BlockInv s → (f.bytes.length = 9 ∨ f.bytes.length = 12) ∧ validSum f.bytes = true ∧
        (f.source = .heater ∨ f.source = .controller))) ∧
    (s.rxq = [] →
      exec .hostRxPop s = .next { s with out := { s.out with result := .frame none } } ∧
      exec (.hostRxWait true) s = .next { s with out := { s.out with result := .frame none } })

/-- `HOST_SET_PASSIVE(v)` (R184) writes the passive flag, in any mode, and nothing else; `HOST_STATUS` (R185) reads the
status registers of R32 (d) and has no side effect. That it also reads `ARB.t_reset`, which R34 lists as readable by the
host, is log 27. -/
def Obligations.HostPassiveAndStatus : Prop :=
  ∀ s : State,
    (∀ v, exec (.hostSetPassive v) s = .next { s with arb := { s.arb with passive := v } }) ∧
    exec .hostStatus s = .next { s with out := { s.out with
      result := .status ⟨s.arb.mode, s.arb.passive, s.arb.cfgErr, s.arb.lastSeenHeater, s.arb.lastSeenController,
        s.arb.lastLocalTx, s.arb.tReset, s.txq.length, s.rxq.length⟩ } }

/-- `RESET(CFG)` (R230, R231, R232), in any state: every register takes its value of R36 at the time of the step, the
configuration is the one given, and a missing pin is reported once; an ill-formed record is refused
(R5). The record in force may be given again (log 17).
The log, the frames taken and the `WAKE` pulses so far stay (log 14). -/
def Obligations.Reset : Prop :=
  ∀ (c : Cfg) (s : State),
    exec (.reset none) s = exec (.reset (some s.cfg)) s ∧
    (cfgWf c = false → exec (.reset (some c)) s = .refused .illFormedConfig) ∧
    (cfgWf c = true → ∃ t, exec (.reset (some c)) s = .next t ∧
      t.cfg = c ∧ t.now = s.now ∧ t.script = s.script ∧
      t.line.dir = .input ∧ t.line.ext = s.line.ext ∧ t.line.level = s.line.ext ∧
      t.cap = ⟨s.line.ext, s.now⟩ ∧ t.pq = [] ∧ t.txq = [] ∧ t.rxq = [] ∧
      t.dec.state = .idle ∧ t.dec.phase = .phNone ∧ t.dec.nbytes = 0 ∧ t.dec.nbits = 0 ∧ t.dec.cur = 0 ∧
      t.arb = ⟨.receiving, c.passiveAtReset, !c.pinConfigured, none, none, none, s.now⟩ ∧
      t.seq.rep = 0 ∧ t.seq.pos = 0 ∧
      t.out.log = s.out.log ++ (if c.pinConfigured then [] else [⟨.config, s.now⟩]) ∧
      t.out.taken = s.out.taken ∧ t.out.wakes = s.out.wakes)

/-- The machine after reset has the values of R36; the configuration's OPEN parameters, `now` and the line's level are the
model's (log 1, log 2). -/
def Obligations.ResetState : Prop :=
  let s := State.reset
  cfgWf s.cfg = true ∧ s.cap = ⟨s.line.level, s.now⟩ ∧ s.line.dir = .input ∧ s.line.level = s.line.ext ∧
  s.pq = [] ∧ s.txq = [] ∧ s.rxq = [] ∧
  s.dec.state = .idle ∧ s.dec.phase = .phNone ∧ s.dec.nbytes = 0 ∧ s.dec.nbits = 0 ∧ s.dec.cur = 0 ∧
  s.arb = ⟨.receiving, s.cfg.passiveAtReset, !s.cfg.pinConfigured, none, none, none, s.now⟩ ∧
  s.seq.rep = 0 ∧ s.seq.pos = 0

/-! ### The log -/

/-- The error rows (R198 to R204), where their cause holds. Class 1: the event is logged with what it records, the frame in
flight is discarded unstored, and the decoder is Idle, or Started on a fresh frame after a restart. `E_STARVED` and
`E_QDROP` only log; `E_CONFIG` logs and sets the sticky flag, once; `E_DOMAIN` is never raised by the block and changes
nothing. That the rows carry the cause, and run only where it holds, is log 13 and log 24. -/
def Obligations.ErrorRows : Prop :=
  ∀ (cause : EndCause) (s : State),
    let after := fun (ev : Event) => ({ s with
      dec := ⟨s.dec.buf, 0, 0, 0, (match cause with | .timeout => .idle | .restart => .started), .phNone⟩
      out := { s.out with log := s.out.log ++ [⟨ev, s.now⟩] } } : State)
    (s.arb.mode = .receiving → s.dec.state = .started →
      ((s.dec.nbytes = 9 ∨ s.dec.nbytes = 12) → s.dec.nbits = 0 → validSum (candidate s) = false →
        validSum (complementBytes (candidate s)) = false →
        exec (.eChecksum cause) s = .next (after (.checksum (candidate s)))) ∧
      (¬ ((s.dec.nbytes = 9 ∨ s.dec.nbytes = 12) ∧ s.dec.nbits = 0) →
        exec (.eLength cause) s = .next (after (.length s.dec.nbytes s.dec.nbits))) ∧
      (s.dec.nbytes = 12 → exec .eOverflow s = .next { s with
        dec := ⟨s.dec.buf, 0, 0, 0, .idle, .phNone⟩
        out := { s.out with log := s.out.log ++ [⟨.overflow, s.now⟩] } })) ∧
    (s.arb.mode = .receiving → s.txq ≠ [] → s.cfg.pinConfigured = true → s.arb.passive = false → txAllowed s = false →
      exec .eStarved s = .next { s with out := { s.out with log := s.out.log ++
        [⟨.starved (decide (s.dec.state = .started)) (!spacingOk s) (!(budgetOk s || controllerAbsent s)), s.now⟩] } }) ∧
    (s.cfg.pinConfigured = false → s.arb.cfgErr = false → exec .eConfig s = .next { s with
      arb := { s.arb with cfgErr := true }
      out := { s.out with log := s.out.log ++ [⟨.config, s.now⟩] } }) ∧
    exec .eDomain s = .next s ∧
    (s.pq.length = s.cfg.pqDepth → exec (.eQdrop .pq) s = .next (raise (.qdrop .pq) s)) ∧
    (s.rxq.length = s.cfg.rxqDepth → exec (.eQdrop .rxq) s = .next (raise (.qdrop .rxq) s)) ∧
    (s.txq.length = s.cfg.txqDepth → exec (.eQdrop .txq) s = .next (raise (.qdrop .txq) s))

/-- The informational rows (R195): each appends its event and info with the time of the step and changes nothing else; and
the code table of R205. -/
def Obligations.InformationalRowsAndCodes : Prop :=
  (∀ c ph, eventCode (.noise c ph) = 1) ∧ (∀ b, eventCode (.checksum b) = 2) ∧ (∀ n k, eventCode (.length n k) = 3) ∧
  eventCode .overflow = 4 ∧ (∀ a b c, eventCode (.starved a b c) = 5) ∧ eventCode .config = 6 ∧ eventCode .domain = 7 ∧
  (∀ q, eventCode (.qdrop q) = 8) ∧ (∀ src n, eventCode (.frameOk src n) = 16) ∧ (∀ f, eventCode (.txStart f) = 17) ∧
  (∀ f, eventCode (.txDone f) = 18) ∧ (∀ f, eventCode (.cmdDropped f) = 19) ∧
  ∀ (src : Source) (len : Nat) (f : RawFrame) (s : State),
    let logged := fun (ev : Event) => ({ s with out := { s.out with log := s.out.log ++ [⟨ev, s.now⟩] } } : State)
    exec (.frameOk src len) s = .next (logged (.frameOk src len)) ∧
    exec (.txStart f) s = .next (logged (.txStart f)) ∧
    exec (.txDone f) s = .next (logged (.txDone f)) ∧
    exec (.cmdDropped f) s = .next (logged (.cmdDropped f))

/-! ### Operations that are not enabled -/

/-- What the model does where the spec enables nothing: the operation waits (log 10). The enabling conditions are the
spec's (R45, R49, R81, R82, R83, R96, R111, R143, R169, R171, R183); those of the rows that are only called inside
another operation are the condition under which the spec calls them (log 11), and those of the error rows are the
error's cause (log 13; for `E_CONFIG` log 24). With no pin bound the receive side is disabled (R85; log 25). A value
that is not of the queue's type is refused (log 22). -/
def Obligations.NotEnabledOperationsWait : Prop :=
  ∀ s : State,
    exec (.envLine s.line.ext) s = waited s ∧
    exec (.tick 0) s = waited s ∧
    (∀ dt, s.arb.mode = .transmitting → s.seq.deadline < s.now + dt → exec (.tick dt) s = waited s) ∧
    (s.cfg.pinConfigured = false ∨ s.line.level = s.cap.lastLevel → exec .edge s = waited s) ∧
    (∀ f, receivedOk f = false → exec (.qEnq (.received f)) s = .refused .notOfQueueType) ∧
    (∀ f, commandOk f = false → exec (.qEnq (.command f)) s = .refused .notOfQueueType) ∧
    (∀ cancel, s.pq = [] → exec (.qDeq .pq cancel) s = waited s ∧ exec .rxPulse s = waited s) ∧
    (s.rxq = [] → exec (.qDeq .rxq false) s = waited s ∧ exec (.hostRxWait false) s = waited s) ∧
    (∀ cancel, s.txq = [] → exec (.qDeq .txq cancel) s = waited s ∧ exec .txSched s = waited s) ∧
    (s.arb.mode = .transmitting → exec .txSched s = waited s ∧
      ∀ p, exec (.decStartLo p) s = waited s ∧ exec (.decStartHi p) s = waited s ∧ exec (.decBitLo p) s = waited s ∧
        exec (.decBitShort p) s = waited s ∧ exec (.decBitLong p) s = waited s ∧ exec (.decIdle p) s = waited s ∧
        exec (.decInvalid p) s = waited s) ∧
    (timeoutEnabled s = false → exec .rxTimeout s = waited s) ∧
    (s.arb.mode = .transmitting ∨ s.dec.state ≠ .started →
      (∀ v, exec (.pushBit v) s = waited s) ∧ (∀ cause, exec (.complete cause) s = waited s) ∧
      ∀ c, exec (.noise c) s = waited s ∧ exec (.eNoise c) s = waited s) ∧
    (s.dec.state ≠ .complete ∨ ¬ ((s.dec.nbytes = 9 ∨ s.dec.nbytes = 12) ∧ s.dec.nbits = 0) →
      exec .validate s = waited s) ∧
    (∀ bytes src, receivedOk ⟨bytes, src, s.now⟩ = false → exec (.finalize bytes src) s = waited s) ∧
    (s.cfg.pinConfigured = false →
      (∀ p, exec (.qEnq (.pulse p)) s = waited s ∧ exec (.decStartLo p) s = waited s ∧ exec (.decStartHi p) s = waited s ∧
        exec (.decBitLo p) s = waited s ∧ exec (.decBitShort p) s = waited s ∧ exec (.decBitLong p) s = waited s ∧
        exec (.decIdle p) s = waited s ∧ exec (.decInvalid p) s = waited s) ∧
      (∀ f, receivedOk f = true → exec (.qEnq (.received f)) s = waited s) ∧
      (∀ bytes src, exec (.finalize bytes src) s = waited s ∧ exec (.arbFrameSeen src) s = waited s ∧
        exec (.f9 bytes) s = waited s ∧ exec (.f12 bytes) s = waited s) ∧
      exec .start s = waited s ∧ exec .short s = waited s ∧ exec .long s = waited s ∧ exec .spacing s = waited s) ∧
    (∀ cause, s.arb.mode = .transmitting ∨ s.dec.state ≠ .started ∨
      ¬ ((s.dec.nbytes = 9 ∨ s.dec.nbytes = 12) ∧ s.dec.nbits = 0) ∨ validSum (candidate s) = true ∨
      validSum (complementBytes (candidate s)) = true → exec (.eChecksum cause) s = waited s) ∧
    (∀ cause, s.arb.mode = .transmitting ∨ s.dec.state ≠ .started ∨
      ((s.dec.nbytes = 9 ∨ s.dec.nbytes = 12) ∧ s.dec.nbits = 0) → exec (.eLength cause) s = waited s) ∧
    (s.arb.mode = .transmitting ∨ s.dec.state ≠ .started ∨ s.dec.nbytes ≠ 12 → exec .eOverflow s = waited s) ∧
    (s.arb.mode = .transmitting ∨ s.txq = [] ∨ s.cfg.pinConfigured = false ∨ s.arb.passive = true ∨ txAllowed s = true →
      exec .eStarved s = waited s) ∧
    (s.pq.length ≠ s.cfg.pqDepth → exec (.eQdrop .pq) s = waited s) ∧
    (s.rxq.length ≠ s.cfg.rxqDepth → exec (.eQdrop .rxq) s = waited s) ∧
    (s.txq.length ≠ s.cfg.txqDepth → exec (.eQdrop .txq) s = waited s) ∧
    (∀ c, s.arb.mode = .transmitting ∨ s.cfg.pinConfigured = false ∨ s.arb.passive = true ∨ txAllowed s = false ∨
      commandOk c = false → exec (.txBegin c) s = waited s) ∧
    (s.arb.mode = .receiving ∨ s.now ≠ s.seq.deadline → exec .txSeg s = waited s ∧ exec .txEnd s = waited s) ∧
    (s.seq.pos = 16 * s.seq.frame.bytes.length + 3 → s.seq.rep + 1 = s.cfg.repeatCount → exec .txSeg s = waited s) ∧
    (s.seq.pos ≠ 16 * s.seq.frame.bytes.length + 3 ∨ s.seq.rep + 1 ≠ s.cfg.repeatCount → exec .txEnd s = waited s) ∧
    (s.cfg.pinConfigured = true ∨ s.arb.cfgErr = true → exec .eConfig s = waited s)

/-! ### The invariant -/

/-- Every step keeps the invariant `BlockInv`: the configuration stays well-formed, R18, R29, R30, R31 and R43 hold, the
frames in `RXQ` are valid and those in `TXQ` commands, every time stamp is in the past (R129), and with no pin bound
`PQ` and `RXQ` stay empty and the decoder stays Idle (R85; log 25). -/
def Obligations.StepKeepsInv : Prop :=
  ∀ s t : State, BlockInv s → step s = .next t → BlockInv t

/-- The machine after reset satisfies the invariant. -/
def Obligations.ResetHasInv : Prop := BlockInv State.reset

end Statements
end

