-- ==== Sys2Proof/Laws/State.lean ====
section
/-! SUPPORT. One lemma per field per update of the state, each true by `rfl`, so that no proof unfolds a record update. -/
namespace Sys2Proof.Machine

/-! ### The log and the answer -/

@[simp] theorem raise_cap (ev : Event) (s : State) : (raise ev s).cap = s.cap := rfl
@[simp] theorem raise_pq (ev : Event) (s : State) : (raise ev s).pq = s.pq := rfl
@[simp] theorem raise_dec (ev : Event) (s : State) : (raise ev s).dec = s.dec := rfl
@[simp] theorem raise_arb (ev : Event) (s : State) : (raise ev s).arb = s.arb := rfl
@[simp] theorem raise_txq (ev : Event) (s : State) : (raise ev s).txq = s.txq := rfl
@[simp] theorem raise_rxq (ev : Event) (s : State) : (raise ev s).rxq = s.rxq := rfl
@[simp] theorem raise_seq (ev : Event) (s : State) : (raise ev s).seq = s.seq := rfl
@[simp] theorem raise_line (ev : Event) (s : State) : (raise ev s).line = s.line := rfl
@[simp] theorem raise_now (ev : Event) (s : State) : (raise ev s).now = s.now := rfl
@[simp] theorem raise_cfg (ev : Event) (s : State) : (raise ev s).cfg = s.cfg := rfl
@[simp] theorem raise_script (ev : Event) (s : State) : (raise ev s).script = s.script := rfl
@[simp] theorem raise_out_log (ev : Event) (s : State) : (raise ev s).out.log = s.out.log ++ [⟨ev, s.now⟩] := rfl
@[simp] theorem raise_out_wave (ev : Event) (s : State) : (raise ev s).out.wave = s.out.wave := rfl
@[simp] theorem raise_out_wakes (ev : Event) (s : State) : (raise ev s).out.wakes = s.out.wakes := rfl
@[simp] theorem raise_out_taken (ev : Event) (s : State) : (raise ev s).out.taken = s.out.taken := rfl
@[simp] theorem raise_out_result (ev : Event) (s : State) : (raise ev s).out.result = s.out.result := rfl

@[simp] theorem answer_cap (r : Result) (s : State) : (answer r s).cap = s.cap := rfl
@[simp] theorem answer_pq (r : Result) (s : State) : (answer r s).pq = s.pq := rfl
@[simp] theorem answer_dec (r : Result) (s : State) : (answer r s).dec = s.dec := rfl
@[simp] theorem answer_arb (r : Result) (s : State) : (answer r s).arb = s.arb := rfl
@[simp] theorem answer_txq (r : Result) (s : State) : (answer r s).txq = s.txq := rfl
@[simp] theorem answer_rxq (r : Result) (s : State) : (answer r s).rxq = s.rxq := rfl
@[simp] theorem answer_seq (r : Result) (s : State) : (answer r s).seq = s.seq := rfl
@[simp] theorem answer_line (r : Result) (s : State) : (answer r s).line = s.line := rfl
@[simp] theorem answer_now (r : Result) (s : State) : (answer r s).now = s.now := rfl
@[simp] theorem answer_cfg (r : Result) (s : State) : (answer r s).cfg = s.cfg := rfl
@[simp] theorem answer_script (r : Result) (s : State) : (answer r s).script = s.script := rfl
@[simp] theorem answer_out_result (r : Result) (s : State) : (answer r s).out.result = r := rfl
@[simp] theorem answer_out_log (r : Result) (s : State) : (answer r s).out.log = s.out.log := rfl
@[simp] theorem answer_out_wave (r : Result) (s : State) : (answer r s).out.wave = s.out.wave := rfl
@[simp] theorem answer_out_wakes (r : Result) (s : State) : (answer r s).out.wakes = s.out.wakes := rfl
@[simp] theorem answer_out_taken (r : Result) (s : State) : (answer r s).out.taken = s.out.taken := rfl

/-! ### The decoder -/

@[simp] theorem beginFrame_cap (s : State) : (beginFrame s).cap = s.cap := rfl
@[simp] theorem beginFrame_pq (s : State) : (beginFrame s).pq = s.pq := rfl
@[simp] theorem beginFrame_arb (s : State) : (beginFrame s).arb = s.arb := rfl
@[simp] theorem beginFrame_txq (s : State) : (beginFrame s).txq = s.txq := rfl
@[simp] theorem beginFrame_rxq (s : State) : (beginFrame s).rxq = s.rxq := rfl
@[simp] theorem beginFrame_seq (s : State) : (beginFrame s).seq = s.seq := rfl
@[simp] theorem beginFrame_line (s : State) : (beginFrame s).line = s.line := rfl
@[simp] theorem beginFrame_now (s : State) : (beginFrame s).now = s.now := rfl
@[simp] theorem beginFrame_cfg (s : State) : (beginFrame s).cfg = s.cfg := rfl
@[simp] theorem beginFrame_out (s : State) : (beginFrame s).out = s.out := rfl
@[simp] theorem beginFrame_script (s : State) : (beginFrame s).script = s.script := rfl
@[simp] theorem beginFrame_dec_buf (s : State) : (beginFrame s).dec.buf = s.dec.buf := rfl
@[simp] theorem beginFrame_dec_nbytes (s : State) : (beginFrame s).dec.nbytes = 0 := rfl
@[simp] theorem beginFrame_dec_cur (s : State) : (beginFrame s).dec.cur = 0 := rfl
@[simp] theorem beginFrame_dec_nbits (s : State) : (beginFrame s).dec.nbits = 0 := rfl
@[simp] theorem beginFrame_dec_state (s : State) : (beginFrame s).dec.state = .started := rfl
@[simp] theorem beginFrame_dec_phase (s : State) : (beginFrame s).dec.phase = .phNone := rfl

@[simp] theorem resetIdle_cap (s : State) : (resetIdle s).cap = s.cap := rfl
@[simp] theorem resetIdle_pq (s : State) : (resetIdle s).pq = s.pq := rfl
@[simp] theorem resetIdle_arb (s : State) : (resetIdle s).arb = s.arb := rfl
@[simp] theorem resetIdle_txq (s : State) : (resetIdle s).txq = s.txq := rfl
@[simp] theorem resetIdle_rxq (s : State) : (resetIdle s).rxq = s.rxq := rfl
@[simp] theorem resetIdle_seq (s : State) : (resetIdle s).seq = s.seq := rfl
@[simp] theorem resetIdle_line (s : State) : (resetIdle s).line = s.line := rfl
@[simp] theorem resetIdle_now (s : State) : (resetIdle s).now = s.now := rfl
@[simp] theorem resetIdle_cfg (s : State) : (resetIdle s).cfg = s.cfg := rfl
@[simp] theorem resetIdle_out (s : State) : (resetIdle s).out = s.out := rfl
@[simp] theorem resetIdle_script (s : State) : (resetIdle s).script = s.script := rfl
@[simp] theorem resetIdle_dec_buf (s : State) : (resetIdle s).dec.buf = s.dec.buf := rfl
@[simp] theorem resetIdle_dec_nbytes (s : State) : (resetIdle s).dec.nbytes = 0 := rfl
@[simp] theorem resetIdle_dec_cur (s : State) : (resetIdle s).dec.cur = 0 := rfl
@[simp] theorem resetIdle_dec_nbits (s : State) : (resetIdle s).dec.nbits = 0 := rfl
@[simp] theorem resetIdle_dec_state (s : State) : (resetIdle s).dec.state = .idle := rfl
@[simp] theorem resetIdle_dec_phase (s : State) : (resetIdle s).dec.phase = .phNone := rfl

@[simp] theorem setPhase_cap (ph : Phase) (s : State) : (setPhase ph s).cap = s.cap := rfl
@[simp] theorem setPhase_pq (ph : Phase) (s : State) : (setPhase ph s).pq = s.pq := rfl
@[simp] theorem setPhase_arb (ph : Phase) (s : State) : (setPhase ph s).arb = s.arb := rfl
@[simp] theorem setPhase_txq (ph : Phase) (s : State) : (setPhase ph s).txq = s.txq := rfl
@[simp] theorem setPhase_rxq (ph : Phase) (s : State) : (setPhase ph s).rxq = s.rxq := rfl
@[simp] theorem setPhase_seq (ph : Phase) (s : State) : (setPhase ph s).seq = s.seq := rfl
@[simp] theorem setPhase_line (ph : Phase) (s : State) : (setPhase ph s).line = s.line := rfl
@[simp] theorem setPhase_now (ph : Phase) (s : State) : (setPhase ph s).now = s.now := rfl
@[simp] theorem setPhase_cfg (ph : Phase) (s : State) : (setPhase ph s).cfg = s.cfg := rfl
@[simp] theorem setPhase_out (ph : Phase) (s : State) : (setPhase ph s).out = s.out := rfl
@[simp] theorem setPhase_script (ph : Phase) (s : State) : (setPhase ph s).script = s.script := rfl
@[simp] theorem setPhase_dec_buf (ph : Phase) (s : State) : (setPhase ph s).dec.buf = s.dec.buf := rfl
@[simp] theorem setPhase_dec_nbytes (ph : Phase) (s : State) : (setPhase ph s).dec.nbytes = s.dec.nbytes := rfl
@[simp] theorem setPhase_dec_cur (ph : Phase) (s : State) : (setPhase ph s).dec.cur = s.dec.cur := rfl
@[simp] theorem setPhase_dec_nbits (ph : Phase) (s : State) : (setPhase ph s).dec.nbits = s.dec.nbits := rfl
@[simp] theorem setPhase_dec_state (ph : Phase) (s : State) : (setPhase ph s).dec.state = s.dec.state := rfl
@[simp] theorem setPhase_dec_phase (ph : Phase) (s : State) : (setPhase ph s).dec.phase = ph := rfl

@[simp] theorem noiseOp_cap (c : PulseClass) (s : State) : (noiseOp c s).cap = s.cap := rfl
@[simp] theorem noiseOp_pq (c : PulseClass) (s : State) : (noiseOp c s).pq = s.pq := rfl
@[simp] theorem noiseOp_arb (c : PulseClass) (s : State) : (noiseOp c s).arb = s.arb := rfl
@[simp] theorem noiseOp_txq (c : PulseClass) (s : State) : (noiseOp c s).txq = s.txq := rfl
@[simp] theorem noiseOp_rxq (c : PulseClass) (s : State) : (noiseOp c s).rxq = s.rxq := rfl
@[simp] theorem noiseOp_seq (c : PulseClass) (s : State) : (noiseOp c s).seq = s.seq := rfl
@[simp] theorem noiseOp_line (c : PulseClass) (s : State) : (noiseOp c s).line = s.line := rfl
@[simp] theorem noiseOp_now (c : PulseClass) (s : State) : (noiseOp c s).now = s.now := rfl
@[simp] theorem noiseOp_cfg (c : PulseClass) (s : State) : (noiseOp c s).cfg = s.cfg := rfl
@[simp] theorem noiseOp_script (c : PulseClass) (s : State) : (noiseOp c s).script = s.script := rfl
@[simp] theorem noiseOp_dec_buf (c : PulseClass) (s : State) : (noiseOp c s).dec.buf = s.dec.buf := rfl
@[simp] theorem noiseOp_dec_nbytes (c : PulseClass) (s : State) : (noiseOp c s).dec.nbytes = 0 := rfl
@[simp] theorem noiseOp_dec_cur (c : PulseClass) (s : State) : (noiseOp c s).dec.cur = 0 := rfl
@[simp] theorem noiseOp_dec_nbits (c : PulseClass) (s : State) : (noiseOp c s).dec.nbits = 0 := rfl
@[simp] theorem noiseOp_dec_state (c : PulseClass) (s : State) : (noiseOp c s).dec.state = .idle := rfl
@[simp] theorem noiseOp_dec_phase (c : PulseClass) (s : State) : (noiseOp c s).dec.phase = .phNone := rfl
@[simp] theorem noiseOp_out_log (c : PulseClass) (s : State) : (noiseOp c s).out.log = s.out.log ++ [⟨.noise c s.dec.phase, s.now⟩] := rfl
@[simp] theorem noiseOp_out_wave (c : PulseClass) (s : State) : (noiseOp c s).out.wave = s.out.wave := rfl
@[simp] theorem noiseOp_out_wakes (c : PulseClass) (s : State) : (noiseOp c s).out.wakes = s.out.wakes := rfl
@[simp] theorem noiseOp_out_taken (c : PulseClass) (s : State) : (noiseOp c s).out.taken = s.out.taken := rfl
@[simp] theorem noiseOp_out_result (c : PulseClass) (s : State) : (noiseOp c s).out.result = s.out.result := rfl

/-! ### The sequencer and the line -/

@[simp] theorem driveSegment_cap (lv : Level) (d : Nat) (s : State) : (driveSegment lv d s).cap = s.cap := rfl
@[simp] theorem driveSegment_pq (lv : Level) (d : Nat) (s : State) : (driveSegment lv d s).pq = s.pq := rfl
@[simp] theorem driveSegment_dec (lv : Level) (d : Nat) (s : State) : (driveSegment lv d s).dec = s.dec := rfl
@[simp] theorem driveSegment_arb (lv : Level) (d : Nat) (s : State) : (driveSegment lv d s).arb = s.arb := rfl
@[simp] theorem driveSegment_txq (lv : Level) (d : Nat) (s : State) : (driveSegment lv d s).txq = s.txq := rfl
@[simp] theorem driveSegment_rxq (lv : Level) (d : Nat) (s : State) : (driveSegment lv d s).rxq = s.rxq := rfl
@[simp] theorem driveSegment_now (lv : Level) (d : Nat) (s : State) : (driveSegment lv d s).now = s.now := rfl
@[simp] theorem driveSegment_cfg (lv : Level) (d : Nat) (s : State) : (driveSegment lv d s).cfg = s.cfg := rfl
@[simp] theorem driveSegment_script (lv : Level) (d : Nat) (s : State) : (driveSegment lv d s).script = s.script := rfl
@[simp] theorem driveSegment_line_dir (lv : Level) (d : Nat) (s : State) : (driveSegment lv d s).line.dir = s.line.dir := rfl
@[simp] theorem driveSegment_line_out (lv : Level) (d : Nat) (s : State) : (driveSegment lv d s).line.out = lv := rfl
@[simp] theorem driveSegment_line_ext (lv : Level) (d : Nat) (s : State) : (driveSegment lv d s).line.ext = s.line.ext := rfl
@[simp] theorem driveSegment_line_level (lv : Level) (d : Nat) (s : State) : (driveSegment lv d s).line.level = s.line.level := rfl
@[simp] theorem driveSegment_line_draws (lv : Level) (d : Nat) (s : State) : (driveSegment lv d s).line.draws = s.line.draws := rfl
@[simp] theorem driveSegment_seq_frame (lv : Level) (d : Nat) (s : State) : (driveSegment lv d s).seq.frame = s.seq.frame := rfl
@[simp] theorem driveSegment_seq_rep (lv : Level) (d : Nat) (s : State) : (driveSegment lv d s).seq.rep = s.seq.rep := rfl
@[simp] theorem driveSegment_seq_pos (lv : Level) (d : Nat) (s : State) : (driveSegment lv d s).seq.pos = s.seq.pos := rfl
@[simp] theorem driveSegment_seq_deadline (lv : Level) (d : Nat) (s : State) : (driveSegment lv d s).seq.deadline = s.now + d := rfl
@[simp] theorem driveSegment_out_wave (lv : Level) (d : Nat) (s : State) : (driveSegment lv d s).out.wave = s.out.wave ++ [⟨lv, s.now, s.now + d⟩] := rfl
@[simp] theorem driveSegment_out_log (lv : Level) (d : Nat) (s : State) : (driveSegment lv d s).out.log = s.out.log := rfl
@[simp] theorem driveSegment_out_wakes (lv : Level) (d : Nat) (s : State) : (driveSegment lv d s).out.wakes = s.out.wakes := rfl
@[simp] theorem driveSegment_out_taken (lv : Level) (d : Nat) (s : State) : (driveSegment lv d s).out.taken = s.out.taken := rfl
@[simp] theorem driveSegment_out_result (lv : Level) (d : Nat) (s : State) : (driveSegment lv d s).out.result = s.out.result := rfl

@[simp] theorem takeLine_cap (c : RawFrame) (s : State) : (takeLine c s).cap = s.cap := rfl
@[simp] theorem takeLine_pq (c : RawFrame) (s : State) : (takeLine c s).pq = s.pq := rfl
@[simp] theorem takeLine_dec (c : RawFrame) (s : State) : (takeLine c s).dec = s.dec := rfl
@[simp] theorem takeLine_txq (c : RawFrame) (s : State) : (takeLine c s).txq = s.txq := rfl
@[simp] theorem takeLine_rxq (c : RawFrame) (s : State) : (takeLine c s).rxq = s.rxq := rfl
@[simp] theorem takeLine_now (c : RawFrame) (s : State) : (takeLine c s).now = s.now := rfl
@[simp] theorem takeLine_cfg (c : RawFrame) (s : State) : (takeLine c s).cfg = s.cfg := rfl
@[simp] theorem takeLine_script (c : RawFrame) (s : State) : (takeLine c s).script = s.script := rfl
@[simp] theorem takeLine_arb_mode (c : RawFrame) (s : State) : (takeLine c s).arb.mode = .transmitting := rfl
@[simp] theorem takeLine_arb_passive (c : RawFrame) (s : State) : (takeLine c s).arb.passive = s.arb.passive := rfl
@[simp] theorem takeLine_arb_cfgErr (c : RawFrame) (s : State) : (takeLine c s).arb.cfgErr = s.arb.cfgErr := rfl
@[simp] theorem takeLine_arb_lastSeenHeater (c : RawFrame) (s : State) : (takeLine c s).arb.lastSeenHeater = s.arb.lastSeenHeater := rfl
@[simp] theorem takeLine_arb_lastSeenController (c : RawFrame) (s : State) : (takeLine c s).arb.lastSeenController = s.arb.lastSeenController := rfl
@[simp] theorem takeLine_arb_lastLocalTx (c : RawFrame) (s : State) : (takeLine c s).arb.lastLocalTx = s.arb.lastLocalTx := rfl
@[simp] theorem takeLine_arb_tReset (c : RawFrame) (s : State) : (takeLine c s).arb.tReset = s.arb.tReset := rfl
@[simp] theorem takeLine_line_dir (c : RawFrame) (s : State) : (takeLine c s).line.dir = .output := rfl
@[simp] theorem takeLine_line_out (c : RawFrame) (s : State) : (takeLine c s).line.out = low := rfl
@[simp] theorem takeLine_line_ext (c : RawFrame) (s : State) : (takeLine c s).line.ext = s.line.ext := rfl
@[simp] theorem takeLine_line_level (c : RawFrame) (s : State) : (takeLine c s).line.level = s.line.level := rfl
@[simp] theorem takeLine_line_draws (c : RawFrame) (s : State) : (takeLine c s).line.draws = s.line.draws := rfl
@[simp] theorem takeLine_seq_frame (c : RawFrame) (s : State) : (takeLine c s).seq.frame = c := rfl
@[simp] theorem takeLine_seq_rep (c : RawFrame) (s : State) : (takeLine c s).seq.rep = 0 := rfl
@[simp] theorem takeLine_seq_pos (c : RawFrame) (s : State) : (takeLine c s).seq.pos = 0 := rfl
@[simp] theorem takeLine_seq_deadline (c : RawFrame) (s : State) : (takeLine c s).seq.deadline = s.now + s.cfg.startLo := rfl
@[simp] theorem takeLine_out_wave (c : RawFrame) (s : State) : (takeLine c s).out.wave = s.out.wave ++ [⟨low, s.now, s.now + s.cfg.startLo⟩] := rfl
@[simp] theorem takeLine_out_log (c : RawFrame) (s : State) : (takeLine c s).out.log = s.out.log := rfl
@[simp] theorem takeLine_out_wakes (c : RawFrame) (s : State) : (takeLine c s).out.wakes = s.out.wakes := rfl
@[simp] theorem takeLine_out_taken (c : RawFrame) (s : State) : (takeLine c s).out.taken = s.out.taken := rfl
@[simp] theorem takeLine_out_result (c : RawFrame) (s : State) : (takeLine c s).out.result = s.out.result := rfl

/-! ### The script -/

@[simp] theorem pushScript_cap (bytes : Bytes) (s : State) : (pushScript bytes s).cap = s.cap := rfl
@[simp] theorem pushScript_pq (bytes : Bytes) (s : State) : (pushScript bytes s).pq = s.pq := rfl
@[simp] theorem pushScript_dec (bytes : Bytes) (s : State) : (pushScript bytes s).dec = s.dec := rfl
@[simp] theorem pushScript_arb (bytes : Bytes) (s : State) : (pushScript bytes s).arb = s.arb := rfl
@[simp] theorem pushScript_txq (bytes : Bytes) (s : State) : (pushScript bytes s).txq = s.txq := rfl
@[simp] theorem pushScript_rxq (bytes : Bytes) (s : State) : (pushScript bytes s).rxq = s.rxq := rfl
@[simp] theorem pushScript_seq (bytes : Bytes) (s : State) : (pushScript bytes s).seq = s.seq := rfl
@[simp] theorem pushScript_line (bytes : Bytes) (s : State) : (pushScript bytes s).line = s.line := rfl
@[simp] theorem pushScript_now (bytes : Bytes) (s : State) : (pushScript bytes s).now = s.now := rfl
@[simp] theorem pushScript_cfg (bytes : Bytes) (s : State) : (pushScript bytes s).cfg = s.cfg := rfl
@[simp] theorem pushScript_out (bytes : Bytes) (s : State) : (pushScript bytes s).out = s.out := rfl
@[simp] theorem pushScript_script (bytes : Bytes) (s : State) : (pushScript bytes s).script = bytes ++ s.script := rfl

/-! ### The registers after reset -/

@[simp] theorem released_cap (c : Cfg) (now : Nat) (ext : Level) (draws : Nat) (o : Outputs) (script : Bytes) : (State.released c now ext draws o script).cap = ⟨ext, now⟩ := rfl
@[simp] theorem released_pq (c : Cfg) (now : Nat) (ext : Level) (draws : Nat) (o : Outputs) (script : Bytes) : (State.released c now ext draws o script).pq = [] := rfl
@[simp] theorem released_dec (c : Cfg) (now : Nat) (ext : Level) (draws : Nat) (o : Outputs) (script : Bytes) : (State.released c now ext draws o script).dec = ⟨[], 0, 0, 0, .idle, .phNone⟩ := rfl
@[simp] theorem released_arb (c : Cfg) (now : Nat) (ext : Level) (draws : Nat) (o : Outputs) (script : Bytes) : (State.released c now ext draws o script).arb = ⟨.receiving, c.passiveAtReset, !c.pinConfigured, none, none, none, now⟩ := rfl
@[simp] theorem released_txq (c : Cfg) (now : Nat) (ext : Level) (draws : Nat) (o : Outputs) (script : Bytes) : (State.released c now ext draws o script).txq = [] := rfl
@[simp] theorem released_rxq (c : Cfg) (now : Nat) (ext : Level) (draws : Nat) (o : Outputs) (script : Bytes) : (State.released c now ext draws o script).rxq = [] := rfl
@[simp] theorem released_seq (c : Cfg) (now : Nat) (ext : Level) (draws : Nat) (o : Outputs) (script : Bytes) : (State.released c now ext draws o script).seq = ⟨noFrame, 0, 0, 0⟩ := rfl
@[simp] theorem released_line (c : Cfg) (now : Nat) (ext : Level) (draws : Nat) (o : Outputs) (script : Bytes) : (State.released c now ext draws o script).line = ⟨.input, low, ext, ext, draws⟩ := rfl
@[simp] theorem released_now (c : Cfg) (now : Nat) (ext : Level) (draws : Nat) (o : Outputs) (script : Bytes) : (State.released c now ext draws o script).now = now := rfl
@[simp] theorem released_cfg (c : Cfg) (now : Nat) (ext : Level) (draws : Nat) (o : Outputs) (script : Bytes) : (State.released c now ext draws o script).cfg = c := rfl
@[simp] theorem released_out (c : Cfg) (now : Nat) (ext : Level) (draws : Nat) (o : Outputs) (script : Bytes) : (State.released c now ext draws o script).out = o := rfl
@[simp] theorem released_script (c : Cfg) (now : Nat) (ext : Level) (draws : Nat) (o : Outputs) (script : Bytes) : (State.released c now ext draws o script).script = script := rfl

end Sys2Proof.Machine
end

