-- ==== Sys2Proof/Laws/Buffer.lean ====
section
/-! SUPPORT. The frame buffer: a read after a write, and the canonical form kept by every operation on it. -/
namespace Sys2Proof.Machine

/-- A canonical buffer lists no cell below the index it starts from. -/
theorem bufRead_below {m : Memory} {lo i : Nat} (h : wfFrom lo m = true) (hi : i < lo) : bufRead m i = unlistedByte := by
  induction m generalizing lo with
  | nil => rfl
  | cons c m ih =>
    obtain ⟨a, b⟩ := c
    simp only [wfFrom, Bool.and_eq_true, decide_eq_true_eq] at h
    have hne : a ≠ i := by omega
    simp only [bufRead, hne, if_false]
    exact ih h.2 (by omega)

/-- Starting from a lower index is weaker. -/
theorem wfFrom_mono {m : Memory} {lo lo' : Nat} (h : wfFrom lo m = true) (hl : lo' ≤ lo) : wfFrom lo' m = true := by
  cases m with
  | nil => rfl
  | cons c m =>
    obtain ⟨a, b⟩ := c
    simp only [wfFrom, Bool.and_eq_true, decide_eq_true_eq] at h ⊢
    exact ⟨⟨⟨by omega, h.1.1.2⟩, h.1.2⟩, h.2⟩

/-- An insertion keeps the canonical form. -/
theorem bufInsert_wf {m : Memory} {lo i : Nat} {b : Byte} (h : wfFrom lo m = true) (hlo : lo ≤ i) (hi : i < bufSize) :
    wfFrom lo (bufInsert m i b) = true := by
  induction m generalizing lo with
  | nil =>
    by_cases hb : b = unlistedByte
    · simp [bufInsert, hb, wfFrom]
    · simp [bufInsert, hb, wfFrom, hlo, hi]
  | cons c m ih =>
    obtain ⟨a, x⟩ := c
    simp only [wfFrom, Bool.and_eq_true, decide_eq_true_eq] at h
    obtain ⟨⟨⟨h1, h2⟩, h3⟩, h4⟩ := h
    by_cases hia : i < a
    · by_cases hb : b = unlistedByte
      · simp [bufInsert, hia, hb, wfFrom, h1, h2, h3, h4]
      · simp [bufInsert, hia, hb, wfFrom, hlo, hi, Nat.succ_le_of_lt hia, h2, h3, h4]
    · by_cases hea : i = a
      · subst hea
        by_cases hb : b = unlistedByte
        · simpa [bufInsert, hb] using wfFrom_mono h4 (by omega)
        · simp [bufInsert, hb, wfFrom, h1, h2, h4]
      · simp [bufInsert, hia, hea, wfFrom, h1, h2, h3, ih h4 (by omega)]

/-- What an insertion leaves at every index. -/
theorem bufRead_bufInsert {m : Memory} {lo i j : Nat} {b : Byte} (h : wfFrom lo m = true) :
    bufRead (bufInsert m i b) j = if j = i then b else bufRead m j := by
  induction m generalizing lo with
  | nil =>
    by_cases hb : b = unlistedByte
    · simp [bufInsert, hb, bufRead]
    · by_cases hj : i = j
      · simp [bufInsert, hb, bufRead, hj]
      · have hne : ¬ j = i := fun e => hj e.symm
        simp [bufInsert, hb, bufRead, hj, hne]
  | cons c m ih =>
    obtain ⟨a, x⟩ := c
    simp only [wfFrom, Bool.and_eq_true, decide_eq_true_eq] at h
    obtain ⟨⟨⟨h1, h2⟩, h3⟩, h4⟩ := h
    by_cases hia : i < a
    · by_cases hb : b = unlistedByte
      · by_cases hj : j = i
        · subst hj
          have hne : a ≠ j := by omega
          simp [bufInsert, hia, hb, bufRead, hne, bufRead_below h4 (show j < a + 1 by omega)]
        · simp [bufInsert, hia, hb, hj]
      · by_cases hj : j = i
        · subst hj; simp [bufInsert, hia, hb, bufRead]
        · have hne : ¬ i = j := fun e => hj e.symm
          simp [bufInsert, hia, hb, bufRead, hj, hne]
    · by_cases hea : i = a
      · subst hea
        by_cases hj : j = i
        · subst hj
          by_cases hb : b = unlistedByte
          · simp [bufInsert, hb, bufRead_below h4 (show j < j + 1 by omega)]
          · simp [bufInsert, hb, bufRead]
        · have hne : ¬ i = j := fun e => hj e.symm
          by_cases hb : b = unlistedByte
          · simp [bufInsert, hb, bufRead, hj, hne]
          · simp [bufInsert, hb, bufRead, hj, hne]
      · by_cases hj : j = i
        · subst hj
          have hne : ¬ a = j := fun e => hea e.symm
          simp [bufInsert, hia, hea, bufRead, hne, ih h4]
        · by_cases haj : a = j
          · subst haj
            simp only [bufInsert, hia, hea, if_false, bufRead, if_true, hj]
          · simp [bufInsert, hia, hea, bufRead, haj, hj, ih h4]

/-- The empty buffer is canonical. -/
theorem wf_empty : Memory.wf [] = true := rfl

/-- The frame buffer after reset has the canonical form. -/
theorem reset_buf_wf : Memory.wf State.reset.dec.buf = true := rfl

/-- A write keeps the canonical form. -/
theorem bufWrite_wf {m : Memory} (i : Nat) (b : Byte) (h : Memory.wf m = true) : Memory.wf (bufWrite m i b) = true := by
  unfold bufWrite
  split
  · exact bufInsert_wf h (Nat.zero_le i) ‹_›
  · exact h

/-- A read after a write inside the buffer. -/
theorem bufRead_bufWrite {m : Memory} {i j : Nat} {b : Byte} (h : Memory.wf m = true) (hi : i < bufSize) :
    bufRead (bufWrite m i b) j = if j = i then b else bufRead m j := by
  simp only [bufWrite, hi, if_true]
  exact bufRead_bufInsert h

/-- A read at the index written. -/
theorem bufRead_bufWrite_same {m : Memory} {i : Nat} {b : Byte} (h : Memory.wf m = true) (hi : i < bufSize) :
    bufRead (bufWrite m i b) i = b := by simp [bufRead_bufWrite h hi]

/-- A write leaves every other index alone. -/
theorem bufRead_bufWrite_other {m : Memory} {i j : Nat} {b : Byte} (h : Memory.wf m = true) (hj : j ≠ i) :
    bufRead (bufWrite m i b) j = bufRead m j := by
  unfold bufWrite
  split
  · simp [bufRead_bufInsert h, hj]
  · rfl

@[simp] theorem bufTake_length (m : Memory) (n : Nat) : (bufTake m n).length = n := by simp [bufTake]

/-- A write behind the bytes taken leaves them alone. -/
theorem bufTake_bufWrite {m : Memory} {i n : Nat} {b : Byte} (h : Memory.wf m = true) (hn : n ≤ i) :
    bufTake (bufWrite m i b) n = bufTake m n := by
  unfold bufTake
  refine List.map_congr_left fun j hj => bufRead_bufWrite_other h ?_
  have := List.mem_range.mp hj
  omega

/-- A byte appended at the end of the bytes taken. -/
theorem bufTake_append {m : Memory} {n : Nat} {b : Byte} (h : Memory.wf m = true) (hn : n < bufSize) :
    bufTake (bufWrite m n b) (n + 1) = bufTake m n ++ [b] := by
  have hs := bufRead_bufWrite_same (b := b) h hn
  have ht := bufTake_bufWrite (b := b) h (Nat.le_refl n)
  unfold bufTake at ht ⊢
  rw [List.range_succ, List.map_append, ht]
  simp [hs]

end Sys2Proof.Machine
end

