-- ==== Sys2Proof/Laws/Encoding.lean ====
section
/-! SUPPORT. The fields of the script's encoding: what a parser reads back from what the encoder writes. -/
namespace Sys2Proof

@[simp] theorem andThen_ok {α β : Type} (a : α) (r : Bytes) (k : α → Bytes → Parsed β) : andThen (.ok (a, r)) k = k a r := rfl
@[simp] theorem andThen_error {α β : Type} (e : DecodeError) (k : α → Bytes → Parsed β) :
    andThen (.error e : Parsed α) k = .error e := rfl
@[simp] theorem parseMap_ok {α β : Type} (f : α → β) (a : α) (r : Bytes) : parseMap f (.ok (a, r)) = .ok (f a, r) := rfl
@[simp] theorem parseMap_error {α β : Type} (f : α → β) (e : DecodeError) : parseMap f (.error e : Parsed α) = .error e := rfl
@[simp] theorem takeByte_cons (b : Byte) (r : Bytes) : takeByte (b :: r) = .ok (b, r) := rfl

/-- A number below `256^k` is read back from its `k` bytes. -/
theorem takeNat_natBytes (k n : Nat) (r : Bytes) (h : n < 256 ^ k) : takeNat k (natBytes k n ++ r) = .ok (n, r) := by
  induction k generalizing n with
  | zero =>
    have : n = 0 := by simpa using h
    subst this
    rfl
  | succ k ih =>
    have hd : n / 256 < 256 ^ k := by
      rw [Nat.div_lt_iff_lt_mul (by decide)]
      rw [Nat.pow_succ] at h
      exact h
    have hm : n % 256 + 256 * (n / 256) = n := Nat.mod_add_div n 256
    simp [natBytes, takeNat, ih (n / 256) hd, hm]

/-- Bytes are read back in order. -/
theorem takeBytes_append (l r : Bytes) : takeBytes l.length (l ++ r) = .ok (l, r) := by
  induction l with
  | nil => rfl
  | cons b l ih => simp [takeBytes, ih]

/-- A code of the field is read as the value it stands for. -/
theorem takeCode_codeByte {α : Type} (k : Nat) (f : Nat → α) (n : Nat) (r : Bytes) (h : n < k) (hk : k ≤ 256) :
    takeCode k f (codeByte n ++ r) = .ok (f n, r) := by
  have hn : n % 256 = n := Nat.mod_eq_of_lt (by omega)
  simp [takeCode, codeByte, operandCode, hn, h]

@[simp] theorem takeCode_bool (v : Bool) (r : Bytes) :
    takeCode 2 boolOfCode (codeByte (codeOfBool v) ++ r) = .ok (v, r) := by
  cases v <;> exact takeCode_codeByte _ _ _ r (by decide) (by decide)

@[simp] theorem takeCode_source (v : Source) (r : Bytes) :
    takeCode 4 sourceOfCode (codeByte (codeOfSource v) ++ r) = .ok (v, r) := by
  cases v <;> exact takeCode_codeByte _ _ _ r (by decide) (by decide)

@[simp] theorem takeCode_class (v : PulseClass) (r : Bytes) :
    takeCode 7 classOfCode (codeByte (codeOfClass v) ++ r) = .ok (v, r) := by
  cases v <;> exact takeCode_codeByte _ _ _ r (by decide) (by decide)

@[simp] theorem takeCode_cause (v : EndCause) (r : Bytes) :
    takeCode 2 causeOfCode (codeByte (codeOfCause v) ++ r) = .ok (v, r) := by
  cases v <;> exact takeCode_codeByte _ _ _ r (by decide) (by decide)

@[simp] theorem takeCode_queue (v : QueueId) (r : Bytes) :
    takeCode 3 queueOfCode (codeByte (codeOfQueue v) ++ r) = .ok (v, r) := by
  cases v <;> exact takeCode_codeByte _ _ _ r (by decide) (by decide)

/-- A pulse word has 33 bits. -/
theorem pulseWord_lt (p : Pulse) : Machine.pulseWord p < 8589934592 := by
  have := p.duration.isLt
  unfold Machine.pulseWord
  split <;> omega

/-- A pulse is read back from its word (R61). -/
theorem pulseOfWord_pulseWord (p : Pulse) : Machine.pulseOfWord (Machine.pulseWord p) = p := by
  obtain ⟨lv, d⟩ := p
  have hd := d.isLt
  cases lv
  · have e : Machine.pulseWord ⟨false, d⟩ = d.toNat := by simp [Machine.pulseWord]
    have h1 : d.toNat / 4294967296 = 0 := Nat.div_eq_of_lt hd
    have h2 : d.toNat % 4294967296 = d.toNat := Nat.mod_eq_of_lt hd
    rw [e, Machine.pulseOfWord, h1, h2, BitVec.ofNat_toNat, BitVec.setWidth_eq]
    rfl
  · have e : Machine.pulseWord ⟨true, d⟩ = 4294967296 + d.toNat := by simp [Machine.pulseWord]
    have h1 : (4294967296 + d.toNat) / 4294967296 = 1 := by omega
    have h2 : (4294967296 + d.toNat) % 4294967296 = d.toNat := by omega
    rw [e, Machine.pulseOfWord, h1, h2, BitVec.ofNat_toNat, BitVec.setWidth_eq]
    rfl

/-- A pulse is read back from its five bytes. -/
theorem takePulse_pulseBytes (p : Pulse) (r : Bytes) : takePulse (pulseBytes p ++ r) = .ok (p, r) := by
  have h := pulseWord_lt p
  have hn := takeNat_natBytes 5 (Machine.pulseWord p) r (by omega)
  unfold takePulse pulseBytes
  rw [hn, parseMap_ok, Nat.mod_eq_of_lt h, pulseOfWord_pulseWord]

/-- A byte sequence shorter than 256 is read back. -/
theorem takeBlock_blockBytes (l r : Bytes) (h : l.length < 256) : takeBlock (blockBytes l ++ r) = .ok (l, r) := by
  have hn : lengthOfCode (codeOfLength l.length) = l.length := by unfold lengthOfCode codeOfLength; omega
  have hc : codeOfLength l.length % 256 = codeOfLength l.length := Nat.mod_eq_of_lt (by unfold codeOfLength; omega)
  simp [takeBlock, blockBytes, hn, hc, takeBytes_append]

/-- A time stamp that fits is below `256^8`. -/
theorem timeFits_lt {t : Nat} (h : timeFits t = true) : t < 256 ^ 8 := by
  have h1 : t ≤ 18446744073709551615 := of_decide_eq_true h
  omega

/-- A frame operand is read back. -/
theorem takeFrame_frameBytes (f : RawFrame) (r : Bytes) (h : frameFits f = true) :
    takeFrame (frameBytes f ++ r) = .ok (f, r) := by
  simp only [frameFits, bytesFit, Bool.and_eq_true, decide_eq_true_eq] at h
  have ht := takeNat_natBytes 8 f.capturedAt r (timeFits_lt h.2)
  have hb := takeBlock_blockBytes f.bytes (natBytes 8 f.capturedAt ++ r) h.1
  simp [takeFrame, frameBytes, List.append_assoc, hb, ht]

end Sys2Proof
end

