-- ==== Sys2Proof/Laws/Leads.lean ====
section
/-! SUPPORT. What the decoder reads behind each lead byte (R72) and each event code (R205), one equation per row, so that no
proof unfolds the decoder. -/
namespace Sys2Proof

theorem decode_00 (c : Cfg) (bs : Bytes) : decode c (0x00 :: bs) =
    parseMap Instr.envLine (takeCode 2 boolOfCode bs) := rfl
theorem decode_01 (c : Cfg) (bs : Bytes) : decode c (0x01 :: bs) =
    parseMap (fun n => Instr.tick (n + 1)) (takeNat 8 bs) := rfl
theorem decode_08 (c : Cfg) (bs : Bytes) : decode c (0x08 :: bs) =
    .ok (Instr.edge, bs) := rfl
theorem decode_10 (c : Cfg) (bs : Bytes) : decode c (0x10 :: bs) =
    parseMap Instr.qEnq (takeEntry bs) := rfl
theorem decode_11 (c : Cfg) (bs : Bytes) : decode c (0x11 :: bs) =
    andThen (takeCode 3 queueOfCode bs) (fun q r => parseMap (Instr.qDeq q) (takeCode 2 boolOfCode r)) := rfl
theorem decode_12 (c : Cfg) (bs : Bytes) : decode c (0x12 :: bs) =
    parseMap Instr.qTryDeq (takeCode 3 queueOfCode bs) := rfl
theorem decode_13 (c : Cfg) (bs : Bytes) : decode c (0x13 :: bs) =
    parseMap Instr.qPeek (takeCode 3 queueOfCode bs) := rfl
theorem decode_14 (c : Cfg) (bs : Bytes) : decode c (0x14 :: bs) =
    parseMap Instr.qFlush (takeCode 3 queueOfCode bs) := rfl
theorem decode_20 (c : Cfg) (bs : Bytes) : decode c (0x20 :: bs) =
    .ok (Instr.rxPulse, bs) := rfl
theorem decode_21 (c : Cfg) (bs : Bytes) : decode c (0x21 :: bs) =
    .ok (Instr.rxTimeout, bs) := rfl
theorem decode_22 (c : Cfg) (bs : Bytes) : decode c (0x22 :: bs) =
    parseMap Instr.pushBit (takeCode 2 boolOfCode bs) := rfl
theorem decode_23 (c : Cfg) (bs : Bytes) : decode c (0x23 :: bs) =
    parseMap Instr.complete (takeCode 2 causeOfCode bs) := rfl
theorem decode_24 (c : Cfg) (bs : Bytes) : decode c (0x24 :: bs) =
    parseMap Instr.noise (takeCode 7 classOfCode bs) := rfl
theorem decode_28 (c : Cfg) (bs : Bytes) : decode c (0x28 :: bs) =
    parseMap (fun n => Instr.lenClass n.toNat) (takeByte bs) := rfl
theorem decode_29 (c : Cfg) (bs : Bytes) : decode c (0x29 :: bs) =
    parseMap Instr.csum (takeBlock bs) := rfl
theorem decode_2a (c : Cfg) (bs : Bytes) : decode c (0x2A :: bs) =
    .ok (Instr.validate, bs) := rfl
theorem decode_2b (c : Cfg) (bs : Bytes) : decode c (0x2B :: bs) =
    andThen (takeCode 4 sourceOfCode bs) (fun src r => parseMap (fun l => Instr.finalize l src) (takeBlock r)) := rfl
theorem decode_2c (c : Cfg) (bs : Bytes) : decode c (0x2C :: bs) =
    parseMap Instr.arbFrameSeen (takeCode 4 sourceOfCode bs) := rfl
theorem decode_30 (c : Cfg) (bs : Bytes) : decode c (0x30 :: bs) =
    .ok (Instr.txSched, bs) := rfl
theorem decode_31 (c : Cfg) (bs : Bytes) : decode c (0x31 :: bs) =
    parseMap Instr.txBegin (takeFrame bs) := rfl
theorem decode_32 (c : Cfg) (bs : Bytes) : decode c (0x32 :: bs) =
    .ok (Instr.txSeg, bs) := rfl
theorem decode_33 (c : Cfg) (bs : Bytes) : decode c (0x33 :: bs) =
    .ok (Instr.txEnd, bs) := rfl
theorem decode_40 (c : Cfg) (bs : Bytes) : decode c (0x40 :: bs) =
    parseMap Instr.hostCmd (takeBlock bs) := rfl
theorem decode_41 (c : Cfg) (bs : Bytes) : decode c (0x41 :: bs) =
    .ok (Instr.hostRxPop, bs) := rfl
theorem decode_42 (c : Cfg) (bs : Bytes) : decode c (0x42 :: bs) =
    parseMap Instr.hostRxWait (takeCode 2 boolOfCode bs) := rfl
theorem decode_43 (c : Cfg) (bs : Bytes) : decode c (0x43 :: bs) =
    parseMap Instr.hostSetPassive (takeCode 2 boolOfCode bs) := rfl
theorem decode_44 (c : Cfg) (bs : Bytes) : decode c (0x44 :: bs) =
    .ok (Instr.hostStatus, bs) := rfl
theorem decode_45 (c : Cfg) (bs : Bytes) : decode c (0x45 :: bs) =
    parseMap Instr.hostCsum (takeBlock bs) := rfl
theorem decode_7f (c : Cfg) (bs : Bytes) : decode c (0x7F :: bs) =
    parseMap Instr.reset (takeCfgOption bs) := rfl
theorem decode_80 (c : Cfg) (bs : Bytes) : decode c (0x80 :: bs) =
    parseMap (instrOfPulse c) (takePulse bs) := rfl
theorem decode_81 (c : Cfg) (bs : Bytes) : decode c (0x81 :: bs) =
    andThen (takeNat 9 bs) (fun n r => decodePair c (n % 73786976294838206464) r) := rfl
theorem decode_82 (c : Cfg) (bs : Bytes) : decode c (0x82 :: bs) =
    parseMap Instr.f9 (takeBytes 9 bs) := rfl
theorem decode_83 (c : Cfg) (bs : Bytes) : decode c (0x83 :: bs) =
    parseMap Instr.f12 (takeBytes 12 bs) := rfl
theorem decode_84 (c : Cfg) (bs : Bytes) : decode c (0x84 :: bs) =
    andThen (takeByte bs) decodeEvent := rfl
theorem decode_84_01 (c : Cfg) (bs : Bytes) : decode c (0x84 :: 0x01 :: bs) =
    parseMap Instr.eNoise (takeCode 7 classOfCode bs) := rfl
theorem decode_84_02 (c : Cfg) (bs : Bytes) : decode c (0x84 :: 0x02 :: bs) =
    parseMap Instr.eChecksum (takeCode 2 causeOfCode bs) := rfl
theorem decode_84_03 (c : Cfg) (bs : Bytes) : decode c (0x84 :: 0x03 :: bs) =
    parseMap Instr.eLength (takeCode 2 causeOfCode bs) := rfl
theorem decode_84_04 (c : Cfg) (bs : Bytes) : decode c (0x84 :: 0x04 :: bs) =
    .ok (Instr.eOverflow, bs) := rfl
theorem decode_84_05 (c : Cfg) (bs : Bytes) : decode c (0x84 :: 0x05 :: bs) =
    .ok (Instr.eStarved, bs) := rfl
theorem decode_84_06 (c : Cfg) (bs : Bytes) : decode c (0x84 :: 0x06 :: bs) =
    .ok (Instr.eConfig, bs) := rfl
theorem decode_84_07 (c : Cfg) (bs : Bytes) : decode c (0x84 :: 0x07 :: bs) =
    .ok (Instr.eDomain, bs) := rfl
theorem decode_84_08 (c : Cfg) (bs : Bytes) : decode c (0x84 :: 0x08 :: bs) =
    parseMap Instr.eQdrop (takeCode 3 queueOfCode bs) := rfl
theorem decode_84_10 (c : Cfg) (bs : Bytes) : decode c (0x84 :: 0x10 :: bs) =
    andThen (takeCode 4 sourceOfCode bs) (fun src r => parseMap (fun n => Instr.frameOk src n.toNat) (takeByte r)) := rfl
theorem decode_84_11 (c : Cfg) (bs : Bytes) : decode c (0x84 :: 0x11 :: bs) =
    parseMap Instr.txStart (takeFrame bs) := rfl
theorem decode_84_12 (c : Cfg) (bs : Bytes) : decode c (0x84 :: 0x12 :: bs) =
    parseMap Instr.txDone (takeFrame bs) := rfl
theorem decode_84_13 (c : Cfg) (bs : Bytes) : decode c (0x84 :: 0x13 :: bs) =
    parseMap Instr.cmdDropped (takeFrame bs) := rfl

end Sys2Proof
end

