-- ==== Sys2Proof/Laws/Ops.lean ====
section
/-! SUPPORT. What each shared operation can do and what it leaves alone, said once: frames for the receive side and for the
line, and one lemma per operation. -/
namespace Sys2Proof.Machine

/-! ### Frames -/

/-- What the receive side (decoder, validator, `ARB_FRAME_SEEN`, `RXQ`) leaves as it was. -/
structure RxFrame (s t : State) : Prop where
  cap : t.cap = s.cap
  pq : t.pq = s.pq
  txq : t.txq = s.txq
  seq : t.seq = s.seq
  line : t.line = s.line
  now : t.now = s.now
  cfg : t.cfg = s.cfg
  script : t.script = s.script
  mode : t.arb.mode = s.arb.mode
  passive : t.arb.passive = s.arb.passive
  cfgErr : t.arb.cfgErr = s.arb.cfgErr
  lastLocalTx : t.arb.lastLocalTx = s.arb.lastLocalTx
  tReset : t.arb.tReset = s.arb.tReset
  wave : t.out.wave = s.out.wave
  wakes : t.out.wakes = s.out.wakes
  taken : t.out.taken = s.out.taken
  result : t.out.result = s.out.result

theorem RxFrame.refl (s : State) : RxFrame s s := by constructor <;> rfl

theorem RxFrame.trans {a b c : State} (h : RxFrame a b) (k : RxFrame b c) : RxFrame a c where
  cap := k.cap.trans h.cap
  pq := k.pq.trans h.pq
  txq := k.txq.trans h.txq
  seq := k.seq.trans h.seq
  line := k.line.trans h.line
  now := k.now.trans h.now
  cfg := k.cfg.trans h.cfg
  script := k.script.trans h.script
  mode := k.mode.trans h.mode
  passive := k.passive.trans h.passive
  cfgErr := k.cfgErr.trans h.cfgErr
  lastLocalTx := k.lastLocalTx.trans h.lastLocalTx
  tReset := k.tReset.trans h.tReset
  wave := k.wave.trans h.wave
  wakes := k.wakes.trans h.wakes
  taken := k.taken.trans h.taken
  result := k.result.trans h.result

/-- What recomputing the line's level and capturing a transition leave as it was. -/
structure LineFrame (s t : State) : Prop where
  dec : t.dec = s.dec
  arb : t.arb = s.arb
  txq : t.txq = s.txq
  rxq : t.rxq = s.rxq
  seq : t.seq = s.seq
  dir : t.line.dir = s.line.dir
  lineOut : t.line.out = s.line.out
  ext : t.line.ext = s.line.ext
  now : t.now = s.now
  cfg : t.cfg = s.cfg
  script : t.script = s.script
  wave : t.out.wave = s.out.wave
  taken : t.out.taken = s.out.taken
  result : t.out.result = s.out.result

theorem LineFrame.refl (s : State) : LineFrame s s := by constructor <;> rfl

theorem LineFrame.trans {a b c : State} (h : LineFrame a b) (k : LineFrame b c) : LineFrame a c where
  dec := k.dec.trans h.dec
  arb := k.arb.trans h.arb
  txq := k.txq.trans h.txq
  rxq := k.rxq.trans h.rxq
  seq := k.seq.trans h.seq
  dir := k.dir.trans h.dir
  lineOut := k.lineOut.trans h.lineOut
  ext := k.ext.trans h.ext
  now := k.now.trans h.now
  cfg := k.cfg.trans h.cfg
  script := k.script.trans h.script
  wave := k.wave.trans h.wave
  taken := k.taken.trans h.taken
  result := k.result.trans h.result

/-! ### Queues -/

/-- An enqueue keeps a queue within its capacity (R44). -/
theorem enqList_length_le {α : Type} {cap : Nat} {q : List α} (v : α) (hc : 1 ≤ cap) (h : q.length ≤ cap) :
    (enqList cap q v).length ≤ cap := by
  unfold enqList
  split <;> simp <;> omega

/-- A queue with room gains the entry at its end (R44). -/
theorem enqList_of_room {α : Type} {cap : Nat} {q : List α} (v : α) (h : q.length ≠ cap) : enqList cap q v = q ++ [v] := by
  simp [enqList, h]

/-- A queue at capacity loses its oldest entry (R44). -/
theorem enqList_of_full {α : Type} {cap : Nat} {q : List α} (v : α) (h : q.length = cap) :
    enqList cap q v = q.tail ++ [v] := by simp [enqList, h]

/-- Every entry after an enqueue was there or is the new one. -/
theorem mem_enqList {α : Type} {cap : Nat} {q : List α} {v x : α} (h : x ∈ enqList cap q v) : x ∈ q ∨ x = v := by
  unfold enqList at h
  rw [List.mem_append, List.mem_singleton] at h
  rcases h with h | h
  · split at h
    · exact .inl (List.mem_of_mem_tail h)
    · exact .inl h
  · exact .inr h

/-- The event an enqueue adds to the log, if any (R44, R203). -/
def dropEvents (q : QueueId) (s : State) : List LogEntry := if queueFull q s then [⟨.qdrop q, s.now⟩] else []

/-- `dropLog` adds its event and changes nothing else. -/
theorem dropLog_eq (q : QueueId) (s : State) :
    dropLog q s = { s with out := { s.out with log := s.out.log ++ dropEvents q s } } := by
  unfold dropLog dropEvents
  split <;> simp [raise]

/-- `enq(PQ, p)` in one piece. -/
theorem enqPulse_eq (p : Pulse) (s : State) :
    enqPulse p s = { s with
      pq := enqList s.cfg.pqDepth s.pq p
      out := { s.out with log := s.out.log ++ dropEvents .pq s } } := by
  rw [enqPulse, dropLog_eq]

/-- `enq(RXQ, f)` in one piece. -/
theorem enqReceived_eq (f : RawFrame) (s : State) :
    enqReceived f s = { s with
      rxq := enqList s.cfg.rxqDepth s.rxq f
      out := { s.out with log := s.out.log ++ dropEvents .rxq s } } := by
  rw [enqReceived, dropLog_eq]

/-- `enq(TXQ, f)` in one piece. -/
theorem enqCommand_eq (f : RawFrame) (s : State) :
    enqCommand f s = { s with
      txq := enqList s.cfg.txqDepth s.txq f
      out := { s.out with log := s.out.log ++ dropEvents .txq s } } := by
  rw [enqCommand, dropLog_eq]

/-! ### The line -/

/-- `relevel` in the three cases of R31. -/
theorem relevel_cases (s : State) :
    (s.line.dir = .input ∧ relevel s = { s with line := { s.line with level := s.line.ext } }) ∨
    (s.line.dir = .output ∧ s.line.ext = high ∧ relevel s = { s with line := { s.line with level := s.line.out } }) ∨
    (s.line.dir = .output ∧ s.line.ext = low ∧
      relevel s = { s with line := { s.line with level := Config.lineDraw s.line.draws, draws := s.line.draws + 1 } }) := by
  unfold relevel
  cases hd : s.line.dir <;> cases he : s.line.ext <;> simp

theorem relevel_lineFrame (s : State) : LineFrame s (relevel s) := by
  rcases relevel_cases s with ⟨-, h⟩ | ⟨-, -, h⟩ | ⟨-, -, h⟩ <;> rw [h] <;> constructor <;> rfl

@[simp] theorem relevel_cap (s : State) : (relevel s).cap = s.cap := by unfold relevel; split <;> [rfl; (split <;> rfl)]
@[simp] theorem relevel_pq (s : State) : (relevel s).pq = s.pq := by unfold relevel; split <;> [rfl; (split <;> rfl)]
@[simp] theorem relevel_out (s : State) : (relevel s).out = s.out := by unfold relevel; split <;> [rfl; (split <;> rfl)]

/-- `EDGE` in one piece (R81). -/
theorem capture_eq (s : State) :
    capture s = { s with
      cap := ⟨s.line.level, s.now⟩
      pq := enqList s.cfg.pqDepth s.pq ⟨s.cap.lastLevel, sat32 (s.now - s.cap.lastEdge)⟩
      out := { s.out with log := s.out.log ++ dropEvents .pq s, wakes := s.out.wakes + 1 } } := by
  simp only [capture, enqPulse_eq]

theorem capture_lineFrame (s : State) : LineFrame s (capture s) := by rw [capture_eq]; constructor <;> rfl

theorem edgeOp_lineFrame (s : State) : LineFrame s (edgeOp s) := by
  unfold edgeOp
  split
  · exact capture_lineFrame s
  · exact LineFrame.refl s

theorem settleLine_lineFrame (s : State) : LineFrame s (settleLine s) := by
  unfold settleLine
  split
  · exact relevel_lineFrame s
  · exact (relevel_lineFrame s).trans (edgeOp_lineFrame _)

theorem contendLine_lineFrame (n : Nat) (s : State) : LineFrame s (contendLine n s) := by
  unfold contendLine
  split
  · exact settleLine_lineFrame s
  · exact LineFrame.refl s

@[simp] theorem edgeOp_line (s : State) : (edgeOp s).line = s.line := by
  unfold edgeOp
  split
  · rw [capture_eq]
  · rfl

/-- After the line settles, its level is the one of R31. -/
theorem settleLine_line (s : State) : (settleLine s).line = (relevel s).line := by
  unfold settleLine
  split <;> simp

/-- After `EDGE` had its chance with a pin bound, the captured level is the line's (R80). -/
theorem edgeOp_captured {s : State} (hp : s.cfg.pinConfigured = true) : (edgeOp s).cap.lastLevel = s.line.level := by
  unfold edgeOp
  split
  · rw [capture_eq]
  · rename_i h
    simp only [edgeEnabled, hp, Bool.true_and, bne_iff_ne, ne_eq, not_not] at h
    exact h.symm

/-- A line nobody contends makes no draw. -/
theorem contendLine_of_quiet {n : Nat} {s : State} (h : contention s = false) : contendLine n s = s := by
  simp [contendLine, h]

/-! ### The receive side -/

theorem raise_rxFrame (ev : Event) (s : State) : RxFrame s (raise ev s) := by constructor <;> rfl

theorem beginFrame_rxFrame (s : State) : RxFrame s (beginFrame s) := by constructor <;> rfl

theorem resetIdle_rxFrame (s : State) : RxFrame s (resetIdle s) := by constructor <;> rfl

theorem setPhase_rxFrame (ph : Phase) (s : State) : RxFrame s (setPhase ph s) := by constructor <;> rfl

theorem noiseOp_rxFrame (c : PulseClass) (s : State) : RxFrame s (noiseOp c s) := by constructor <;> rfl

/-- `push_bit` overflows, or shifts the bit in (R104, R105). -/
theorem pushBitOp_cases (v : Bool) (s : State) :
    (s.dec.nbytes = bufSize ∧ pushBitOp v s = resetIdle (raise .overflow s)) ∨
    (s.dec.nbytes ≠ bufSize ∧ pushBitOp v s = { s with dec := shiftBit v s.dec }) := by
  unfold pushBitOp
  split
  · exact .inl ⟨‹_›, rfl⟩
  · exact .inr ⟨‹_›, rfl⟩

theorem pushBitOp_rxFrame (v : Bool) (s : State) : RxFrame s (pushBitOp v s) := by
  rcases pushBitOp_cases v s with ⟨-, h⟩ | ⟨-, h⟩ <;> rw [h] <;> constructor <;> rfl

theorem enqReceived_rxFrame (f : RawFrame) (s : State) : RxFrame s (enqReceived f s) := by
  rw [enqReceived_eq]; constructor <;> rfl

theorem frameSeen_rxFrame (src : Source) (s : State) : RxFrame s (frameSeen src s) := by
  cases src <;> constructor <;> rfl

@[simp] theorem frameSeen_dec (src : Source) (s : State) : (frameSeen src s).dec = s.dec := by cases src <;> rfl
@[simp] theorem frameSeen_rxq (src : Source) (s : State) : (frameSeen src s).rxq = s.rxq := by cases src <;> rfl
@[simp] theorem frameSeen_out (src : Source) (s : State) : (frameSeen src s).out = s.out := by cases src <;> rfl
@[simp] theorem frameSeen_cfg (src : Source) (s : State) : (frameSeen src s).cfg = s.cfg := by cases src <;> rfl
@[simp] theorem frameSeen_now (src : Source) (s : State) : (frameSeen src s).now = s.now := by cases src <;> rfl

/-- `FINALIZE` in one piece (R128, R135). -/
theorem finalizeOp_eq (bytes : Bytes) (src : Source) (s : State) :
    finalizeOp bytes src s = { s with
      arb := (frameSeen src s).arb
      rxq := enqList s.cfg.rxqDepth s.rxq ⟨bytes, src, s.now⟩
      out := { s.out with log := s.out.log ++ dropEvents .rxq s ++ [⟨.frameOk src bytes.length, s.now⟩] } } := by
  cases src <;> simp [finalizeOp, enqReceived_eq, raise, frameSeen, dropEvents, queueFull]

theorem finalizeOp_rxFrame (bytes : Bytes) (src : Source) (s : State) : RxFrame s (finalizeOp bytes src s) :=
  ((frameSeen_rxFrame src s).trans (enqReceived_rxFrame _ _)).trans (raise_rxFrame _ _)

@[simp] theorem finalizeOp_dec (bytes : Bytes) (src : Source) (s : State) : (finalizeOp bytes src s).dec = s.dec := by
  rw [finalizeOp_eq]

/-- `VALIDATE` finalizes the verdict, or logs a checksum error (R125). -/
theorem validateOp_cases (s : State) :
    (∃ bytes src, verdict (candidate s) = some (bytes, src) ∧ validateOp s = finalizeOp bytes src s) ∨
    (verdict (candidate s) = none ∧ validateOp s = raise (.checksum (candidate s)) s) := by
  unfold validateOp
  split
  · exact .inl ⟨_, _, ‹_›, rfl⟩
  · exact .inr ⟨‹_›, rfl⟩

theorem validateOp_rxFrame (s : State) : RxFrame s (validateOp s) := by
  rcases validateOp_cases s with ⟨b, src, -, h⟩ | ⟨-, h⟩ <;> rw [h]
  · exact finalizeOp_rxFrame b src s
  · exact raise_rxFrame _ s

@[simp] theorem validateOp_dec (s : State) : (validateOp s).dec = s.dec := by
  rcases validateOp_cases s with ⟨b, src, -, h⟩ | ⟨-, h⟩ <;> rw [h] <;> simp

theorem judgeFrame_rxFrame (s : State) : RxFrame s (judgeFrame s) := by
  unfold judgeFrame
  split
  · exact RxFrame.trans (by constructor <;> rfl) (validateOp_rxFrame _)
  · exact raise_rxFrame _ s

theorem afterFrame_rxFrame (cause : EndCause) (s : State) : RxFrame s (afterFrame cause s) := by
  cases cause
  · exact resetIdle_rxFrame s
  · exact beginFrame_rxFrame s

theorem completeOp_rxFrame (cause : EndCause) (s : State) : RxFrame s (completeOp cause s) :=
  (judgeFrame_rxFrame s).trans (afterFrame_rxFrame cause _)

/-- After `complete` the decoder is Idle, or Started on a fresh frame (R106, R109); the buffer is as it was. -/
theorem completeOp_dec (cause : EndCause) (s : State) :
    (completeOp cause s).dec =
      { s.dec with state := (match cause with | .timeout => .idle | .restart => .started), phase := .phNone,
                   nbytes := 0, nbits := 0, cur := 0 } := by
  have hb : (judgeFrame s).dec.buf = s.dec.buf := by
    unfold judgeFrame
    split <;> simp
  cases cause <;> simp [completeOp, afterFrame, resetIdle, beginFrame, hb]

/-- Every decoder operation keeps the receive side's frame. -/
theorem decodeClass_rxFrame (c : PulseClass) (s : State) : RxFrame s (decodeClass c s) := by
  have hp (v : Bool) : RxFrame s (setPhase .phNone (pushBitOp v s)) := (pushBitOp_rxFrame v s).trans (setPhase_rxFrame _ _)
  cases c <;> simp only [decodeClass, decStartLoOp, decStartHiOp, decBitLoOp, decBitShortOp, decBitLongOp, decIdleOp,
    decInvalidOp] <;>
    repeat' split
  all_goals first
    | exact setPhase_rxFrame _ s
    | exact noiseOp_rxFrame _ s
    | exact completeOp_rxFrame _ s
    | exact beginFrame_rxFrame s
    | exact hp _

/-- `RX_PULSE` leaves the decoder alone while Transmitting (R96). -/
theorem receivePulse_of_transmitting {p : Pulse} {s : State} (h : isTransmitting s = true) : receivePulse p s = s := by
  simp [receivePulse, h]

theorem receivePulse_rxFrame (p : Pulse) (s : State) : RxFrame s (receivePulse p s) := by
  unfold receivePulse
  split
  · exact RxFrame.refl s
  · exact decodeClass_rxFrame _ s

/-- `RX_PULSE` takes the oldest pulse from `PQ`, and changes the receive side only (R96). -/
theorem rxPulseOp_rxFrame (s : State) : RxFrame { s with pq := s.pq.tail } (rxPulseOp s) := by
  unfold rxPulseOp
  split
  · rename_i h
    constructor <;> simp [h]
  · rename_i p rest h
    have := receivePulse_rxFrame p { s with pq := rest }
    simpa [h] using this

/-- A pulse fed to the block changes the receive side and `PQ` only (R73). -/
theorem feedPulse_rxFrame (s : State) (p : Pulse) : RxFrame { s with pq := (feedPulse s p).pq } (feedPulse s p) := by
  have h := rxPulseOp_rxFrame (enqPulse p s)
  have he := enqPulse_eq p s
  rw [he] at h
  unfold feedPulse
  rw [he]
  exact ⟨h.cap, rfl, h.txq, h.seq, h.line, h.now, h.cfg, h.script, h.mode, h.passive, h.cfgErr, h.lastLocalTx, h.tReset,
    h.wave, h.wakes, h.taken, h.result⟩

/-- A train fed to the block changes the receive side and `PQ` only (R73). -/
theorem feedTrain_rxFrame (ps : List Pulse) (s : State) :
    RxFrame { s with pq := (feedTrain ps s).pq } (feedTrain ps s) := by
  induction ps generalizing s with
  | nil => exact RxFrame.refl _
  | cons p ps ih =>
    have h := ih (feedPulse s p)
    have k := feedPulse_rxFrame s p
    exact ⟨h.cap.trans k.cap, rfl, h.txq.trans k.txq, h.seq.trans k.seq, h.line.trans k.line, h.now.trans k.now,
      h.cfg.trans k.cfg, h.script.trans k.script, h.mode.trans k.mode, h.passive.trans k.passive, h.cfgErr.trans k.cfgErr,
      h.lastLocalTx.trans k.lastLocalTx, h.tReset.trans k.tReset, h.wave.trans k.wave, h.wakes.trans k.wakes,
      h.taken.trans k.taken, h.result.trans k.result⟩

/-- A train is fed from its first pulse on. -/
theorem feedTrain_cons (p : Pulse) (ps : List Pulse) (s : State) : feedTrain (p :: ps) s = feedTrain ps (feedPulse s p) := rfl

theorem feedTrain_append (ps qs : List Pulse) (s : State) : feedTrain (ps ++ qs) s = feedTrain qs (feedTrain ps s) := by
  simp [feedTrain]

/-- With `PQ` empty a pulse fed to the block is decoded at once (R73, R96). -/
theorem feedPulse_of_empty {s : State} {p : Pulse} (hq : s.pq = []) (hd : s.cfg.pqDepth ≠ 0) :
    feedPulse s p = receivePulse p s := by
  have hf : queueFull .pq s = false := by simp [queueFull, hq, Ne.symm hd]
  have he : enqPulse p s = { s with pq := [p] } := by
    rw [enqPulse_eq]
    simp [dropEvents, hf, enqList, hq, Ne.symm hd]
  cases s
  simp_all [feedPulse, rxPulseOp]

/-! ### The sequencer -/

theorem txBeginOp_lineFrame (c : RawFrame) (s : State) : LineFrame (raise (.txStart c) (takeLine c s)) (txBeginOp c s) :=
  settleLine_lineFrame _

/-- `SEQ` moves to the next segment, or to the first of the next repetition (R166). -/
theorem nextSeq_cases (q : Seq) :
    (q.pos < lastSeg q.frame.bytes ∧ nextSeq q = { q with pos := q.pos + 1 }) ∨
    (lastSeg q.frame.bytes ≤ q.pos ∧ nextSeq q = { q with pos := 0, rep := q.rep + 1 }) := by
  unfold nextSeq
  split
  · exact .inl ⟨‹_›, rfl⟩
  · exact .inr ⟨Nat.le_of_not_lt ‹_›, rfl⟩

@[simp] theorem nextSeq_frame (q : Seq) : (nextSeq q).frame = q.frame := by
  rcases nextSeq_cases q with ⟨-, h⟩ | ⟨-, h⟩ <;> rw [h]

/-- `TX_END` in one piece (R171). -/
theorem txEndOp_eq (s : State) :
    txEndOp s = { s with
      cap := ⟨s.line.ext, s.now⟩
      pq := []
      dec := { s.dec with state := .idle, phase := .phNone, nbytes := 0, nbits := 0, cur := 0 }
      arb := { s.arb with mode := .receiving, lastLocalTx := some s.now }
      line := { s.line with dir := .input, level := s.line.ext }
      out := { s.out with log := s.out.log ++ [⟨.txDone s.seq.frame, s.now⟩] } } := rfl

/-- `RESET` in one piece (R230, R231). -/
theorem resetOp_eq (c : Cfg) (s : State) :
    resetOp c s = State.released c s.now s.line.ext s.line.draws
      { s.out with
        log := s.out.log ++ (if c.pinConfigured then [] else [⟨.config, s.now⟩])
        wave := if isTransmitting s then cutWave s.now s.out.wave else s.out.wave } s.script := by
  cases hp : c.pinConfigured <;> simp [resetOp, hp, raise, State.released]

end Sys2Proof.Machine
end

