-- ==== Sys2Proof/Laws/PerInstr.lean ====
section
/-! SUPPORT. Statements about every instruction, one lemma per constructor. -/
namespace Sys2Proof.Laws.EncodingLead

open Sys2Proof

/-- The bytes an instruction's encoding begins with: for an OP row the script number of R72, for a LOG row the lead byte of
the format and the code of R205, for the other rows the lead byte of their format (log 8). -/
def lead : Instr → Bytes
  | .decIdle _ => [0x80]
  | .decBitLo _ => [0x80]
  | .decStartLo _ => [0x80]
  | .decBitShort _ => [0x80]
  | .decBitLong _ => [0x80]
  | .decStartHi _ => [0x80]
  | .decInvalid _ => [0x80]
  | .start => [0x81]
  | .short => [0x81]
  | .long => [0x81]
  | .spacing => [0x81]
  | .f12 _ => [0x83]
  | .f9 _ => [0x82]
  | .envLine _ => [0x00]
  | .tick _ => [0x01]
  | .edge => [0x08]
  | .qEnq _ => [0x10]
  | .qDeq _ _ => [0x11]
  | .qTryDeq _ => [0x12]
  | .qPeek _ => [0x13]
  | .qFlush _ => [0x14]
  | .rxPulse => [0x20]
  | .rxTimeout => [0x21]
  | .pushBit _ => [0x22]
  | .complete _ => [0x23]
  | .noise _ => [0x24]
  | .lenClass _ => [0x28]
  | .csum _ => [0x29]
  | .validate => [0x2A]
  | .finalize _ _ => [0x2B]
  | .arbFrameSeen _ => [0x2C]
  | .txSched => [0x30]
  | .txBegin _ => [0x31]
  | .txSeg => [0x32]
  | .txEnd => [0x33]
  | .hostCmd _ => [0x40]
  | .hostRxPop => [0x41]
  | .hostRxWait _ => [0x42]
  | .hostSetPassive _ => [0x43]
  | .hostStatus => [0x44]
  | .hostCsum _ => [0x45]
  | .reset _ => [0x7F]
  | .eNoise _ => [0x84, 0x01]
  | .eChecksum _ => [0x84, 0x02]
  | .eLength _ => [0x84, 0x03]
  | .eOverflow => [0x84, 0x04]
  | .eStarved => [0x84, 0x05]
  | .eConfig => [0x84, 0x06]
  | .eDomain => [0x84, 0x07]
  | .eQdrop _ => [0x84, 0x08]
  | .frameOk _ _ => [0x84, 0x10]
  | .txStart _ => [0x84, 0x11]
  | .txDone _ => [0x84, 0x12]
  | .cmdDropped _ => [0x84, 0x13]

/-- The encoding of an instruction begins with its row's number, whatever the configuration and the operands. -/
def Statement (i : Instr) : Prop := ∀ c : Cfg, lead i <+: encode c i

theorem decIdle : ∀ a, Statement (.decIdle a) := fun _ _ => ⟨_, rfl⟩
theorem decBitLo : ∀ a, Statement (.decBitLo a) := fun _ _ => ⟨_, rfl⟩
theorem decStartLo : ∀ a, Statement (.decStartLo a) := fun _ _ => ⟨_, rfl⟩
theorem decBitShort : ∀ a, Statement (.decBitShort a) := fun _ _ => ⟨_, rfl⟩
theorem decBitLong : ∀ a, Statement (.decBitLong a) := fun _ _ => ⟨_, rfl⟩
theorem decStartHi : ∀ a, Statement (.decStartHi a) := fun _ _ => ⟨_, rfl⟩
theorem decInvalid : ∀ a, Statement (.decInvalid a) := fun _ _ => ⟨_, rfl⟩
theorem start : Statement (.start) := fun _ => ⟨_, rfl⟩
theorem short : Statement (.short) := fun _ => ⟨_, rfl⟩
theorem long : Statement (.long) := fun _ => ⟨_, rfl⟩
theorem spacing : Statement (.spacing) := fun _ => ⟨_, rfl⟩
theorem f12 : ∀ a, Statement (.f12 a) := fun _ _ => ⟨_, rfl⟩
theorem f9 : ∀ a, Statement (.f9 a) := fun _ _ => ⟨_, rfl⟩
theorem envLine : ∀ a, Statement (.envLine a) := fun _ _ => ⟨_, rfl⟩
theorem tick : ∀ a, Statement (.tick a) := fun _ _ => ⟨_, rfl⟩
theorem edge : Statement (.edge) := fun _ => ⟨_, rfl⟩
theorem qEnq (a : QueueEntry) : Statement (.qEnq a) := fun _ => ⟨_, rfl⟩
theorem qDeq : ∀ a b, Statement (.qDeq a b) := fun _ _ _ => ⟨_, rfl⟩
theorem qTryDeq : ∀ a, Statement (.qTryDeq a) := fun _ _ => ⟨_, rfl⟩
theorem qPeek : ∀ a, Statement (.qPeek a) := fun _ _ => ⟨_, rfl⟩
theorem qFlush : ∀ a, Statement (.qFlush a) := fun _ _ => ⟨_, rfl⟩
theorem rxPulse : Statement (.rxPulse) := fun _ => ⟨_, rfl⟩
theorem rxTimeout : Statement (.rxTimeout) := fun _ => ⟨_, rfl⟩
theorem pushBit : ∀ a, Statement (.pushBit a) := fun _ _ => ⟨_, rfl⟩
theorem complete : ∀ a, Statement (.complete a) := fun _ _ => ⟨_, rfl⟩
theorem noise : ∀ a, Statement (.noise a) := fun _ _ => ⟨_, rfl⟩
theorem lenClass : ∀ a, Statement (.lenClass a) := fun _ _ => ⟨_, rfl⟩
theorem csum : ∀ a, Statement (.csum a) := fun _ _ => ⟨_, rfl⟩
theorem validate : Statement (.validate) := fun _ => ⟨_, rfl⟩
theorem finalize : ∀ a b, Statement (.finalize a b) := fun _ _ _ => ⟨_, rfl⟩
theorem arbFrameSeen : ∀ a, Statement (.arbFrameSeen a) := fun _ _ => ⟨_, rfl⟩
theorem txSched : Statement (.txSched) := fun _ => ⟨_, rfl⟩
theorem txBegin : ∀ a, Statement (.txBegin a) := fun _ _ => ⟨_, rfl⟩
theorem txSeg : Statement (.txSeg) := fun _ => ⟨_, rfl⟩
theorem txEnd : Statement (.txEnd) := fun _ => ⟨_, rfl⟩
theorem hostCmd : ∀ a, Statement (.hostCmd a) := fun _ _ => ⟨_, rfl⟩
theorem hostRxPop : Statement (.hostRxPop) := fun _ => ⟨_, rfl⟩
theorem hostRxWait : ∀ a, Statement (.hostRxWait a) := fun _ _ => ⟨_, rfl⟩
theorem hostSetPassive : ∀ a, Statement (.hostSetPassive a) := fun _ _ => ⟨_, rfl⟩
theorem hostStatus : Statement (.hostStatus) := fun _ => ⟨_, rfl⟩
theorem hostCsum : ∀ a, Statement (.hostCsum a) := fun _ _ => ⟨_, rfl⟩
theorem reset (a : Option Cfg) : Statement (.reset a) := by cases a <;> exact fun _ => ⟨_, rfl⟩
theorem eNoise : ∀ a, Statement (.eNoise a) := fun _ _ => ⟨_, rfl⟩
theorem eChecksum : ∀ a, Statement (.eChecksum a) := fun _ _ => ⟨_, rfl⟩
theorem eLength : ∀ a, Statement (.eLength a) := fun _ _ => ⟨_, rfl⟩
theorem eOverflow : Statement (.eOverflow) := fun _ => ⟨_, rfl⟩
theorem eStarved : Statement (.eStarved) := fun _ => ⟨_, rfl⟩
theorem eConfig : Statement (.eConfig) := fun _ => ⟨_, rfl⟩
theorem eDomain : Statement (.eDomain) := fun _ => ⟨_, rfl⟩
theorem eQdrop : ∀ a, Statement (.eQdrop a) := fun _ _ => ⟨_, rfl⟩
theorem frameOk : ∀ a b, Statement (.frameOk a b) := fun _ _ _ => ⟨_, rfl⟩
theorem txStart : ∀ a, Statement (.txStart a) := fun _ _ => ⟨_, rfl⟩
theorem txDone : ∀ a, Statement (.txDone a) := fun _ _ => ⟨_, rfl⟩
theorem cmdDropped : ∀ a, Statement (.cmdDropped a) := fun _ _ => ⟨_, rfl⟩

end Sys2Proof.Laws.EncodingLead
end

