-- ==== Sys2Proof/Laws/Symbols.lean ====
section
/-! SUPPORT. What the operands of the script, the configuration record and the words of the wire symbols are read back as. -/
namespace Sys2Proof
open Sys2Proof.Machine

/-- The constraints of R5, one by one. -/
theorem cfgWf_parts {c : Cfg} (h : cfgWf c = true) :
    c.tol < c.bitLo ∧ c.tol < c.shortHi ∧ c.shortHi + c.tol + c.tol < c.longHi ∧
    c.longHi + c.tol + c.tol < c.startHi ∧ c.bitLo + c.tol + c.tol < c.startLo ∧
    c.startLo + c.tol < c.idleTimeout ∧ c.startHi + c.tol < c.idleTimeout ∧
    1 ≤ c.repeatCount ∧ 1 ≤ c.pqDepth ∧ 1 ≤ c.rxqDepth ∧ 1 ≤ c.txqDepth ∧ c.idleTimeout ≤ c.frameGap ∧
    worstBound c ≤ c.worstFrame ∧ c.idleTimeout ≤ 4294967295 := by
  simp only [cfgWf, Bool.and_eq_true, decide_eq_true_eq] at h
  obtain ⟨⟨⟨⟨⟨⟨⟨⟨⟨⟨⟨⟨⟨h1, h2⟩, h3⟩, h4⟩, h5⟩, h6⟩, h7⟩, h8⟩, h9⟩, h10⟩, h11⟩, h12⟩, h13⟩, h14⟩ := h
  exact ⟨h1, h2, h3, h4, h5, h6, h7, h8, h9, h10, h11, h12, h13, h14⟩

/-- A list of numbers that fit is read back. -/
theorem takeNats_numbers (l : List Nat) (r : Bytes) (h : l.all timeFits = true) :
    takeNats l.length (l.flatMap (natBytes 8) ++ r) = .ok (l, r) := by
  induction l with
  | nil => rfl
  | cons a l ih =>
    simp only [List.all_cons, Bool.and_eq_true] at h
    simp only [List.flatMap_cons, List.length_cons, List.append_assoc, takeNats]
    rw [takeNat_natBytes 8 a _ (timeFits_lt h.1), andThen_ok, ih h.2, parseMap_ok]

/-- A configuration operand is read back. -/
theorem takeCfg_cfgBytes (c : Cfg) (r : Bytes) (h : cfgFits c = true) : takeCfg (cfgBytes c ++ r) = .ok (c, r) := by
  have e := takeNats_numbers (cfgFields c) (codeByte (codeOfBool c.longBit) ++ (codeByte (codeOfBool c.pinConfigured) ++
    (codeByte (codeOfBool c.passiveAtReset) ++ r))) h
  rw [show (cfgFields c).length = 16 from rfl] at e
  unfold takeCfg cfgBytes
  simp only [List.append_assoc]
  rw [e, andThen_ok, takeCode_bool, andThen_ok, takeCode_bool, andThen_ok, takeCode_bool, andThen_ok]
  rfl

/-- A queue entry operand is read back. -/
theorem takeEntry_entryBytes (e : QueueEntry) (r : Bytes) (h : entryFits e = true) :
    takeEntry (entryBytes e ++ r) = .ok (e, r) := by
  cases e <;> simp only [takeEntry, entryBytes, List.append_assoc] <;> rw [takeCode_queue, andThen_ok]
  · show parseMap _ (takePulse _) = _; rw [takePulse_pulseBytes]; rfl
  · show parseMap _ (takeFrame _) = _; rw [takeFrame_frameBytes _ _ h]; rfl
  · show parseMap _ (takeFrame _) = _; rw [takeFrame_frameBytes _ _ h]; rfl

/-- The word of a symbol: the first pulse above the second. -/
theorem symbolWord_two (p q : Pulse) : symbolWord [p, q] = pulseWord p * 8589934592 + pulseWord q := by
  unfold symbolWord
  rw [List.foldl_cons, List.foldl_cons, List.foldl_nil, Nat.zero_mul, Nat.zero_add]

/-- The word of a symbol has 66 bits. -/
theorem symbolWord_lt (p q : Pulse) : symbolWord [p, q] < 73786976294838206464 := by
  rw [symbolWord_two]
  have hp := pulseWord_lt p
  have hq := pulseWord_lt q
  generalize pulseWord p = x at *
  generalize pulseWord q = y at *
  omega

/-- The word of a symbol determines its pulses. -/
theorem symbolWord_inj {p q p' q' : Pulse} (h : symbolWord [p, q] = symbolWord [p', q']) : p = p' ∧ q = q' := by
  rw [symbolWord_two, symbolWord_two] at h
  have h1 := pulseWord_lt p; have h2 := pulseWord_lt q; have h3 := pulseWord_lt p'; have h4 := pulseWord_lt q'
  have e1 : pulseWord p = pulseWord p' := by omega
  have e2 : pulseWord q = pulseWord q' := by omega
  exact ⟨by rw [← pulseOfWord_pulseWord p, e1, pulseOfWord_pulseWord],
    by rw [← pulseOfWord_pulseWord q, e2, pulseOfWord_pulseWord]⟩

/-- What the lead byte of a symbol reads. -/
theorem decode_symbolBytes {ps : List Pulse} (c : Cfg) (p q : Pulse) (r : Bytes) (h : ps = [p, q]) :
    decode c (symbolBytes ps ++ r) = decodePair c (symbolWord ps) r := by
  subst h
  have hl := symbolWord_lt p q
  unfold symbolBytes
  rw [List.cons_append, decode_81, takeNat_natBytes 9 _ r (by omega), andThen_ok, Nat.mod_eq_of_lt hl]

/-- A pair of pulses that is a wire symbol is its row. -/
theorem decodePair_of_symbol {c : Cfg} {n : Nat} {i : Instr} (r : Bytes) (h : instrOfSymbol c n = some i) :
    decodePair c n r = .ok (i, r) := by
  unfold decodePair
  rw [h]

/-- A word that is no wire symbol is its two pulses, fed one after the other (R73). -/
theorem decodePair_of_other {c : Cfg} {n : Nat} (r : Bytes) (h : instrOfSymbol c n = none) :
    decodePair c n r = .ok (.qEnq (.pulse (pulseOfWord (n / 8589934592))),
      0x20 :: feedBytes (pulseOfWord (n % 8589934592)) ++ r) := by
  unfold decodePair
  rw [h]

/-- What the lead byte of a pulse reads. -/
theorem decode_pulseBytes (c : Cfg) (p : Pulse) (r : Bytes) :
    decode c (0x80 :: pulseBytes p ++ r) = .ok (instrOfPulse c p, r) := by
  rw [List.cons_append, decode_80, takePulse_pulseBytes, parseMap_ok]

/-- `sat32` as a number (R7). -/
theorem sat32_toNat (n : Nat) : (sat32 n).toNat = min n 4294967295 := by
  simp only [sat32, durMax, BitVec.toNat_ofNat]; omega

theorem highPulse_ne {a b : Nat} (h : min a 4294967295 ≠ min b 4294967295) : highPulse a ≠ highPulse b := by
  intro e
  apply h
  rw [← sat32_toNat, ← sat32_toNat]
  simp only [highPulse, Pulse.mk.injEq, true_and] at e
  rw [e]

theorem lowPulse_ne {a b : Nat} (h : min a 4294967295 ≠ min b 4294967295) : lowPulse a ≠ lowPulse b := by
  intro e
  apply h
  rw [← sat32_toNat, ← sat32_toNat]
  simp only [lowPulse, Pulse.mk.injEq, true_and] at e
  rw [e]

/-- The words of the four wire symbols differ, for every well-formed configuration (R5). -/
theorem symbolWord_distinct (c : Cfg) (h : cfgWf c = true) :
    symbolWord (shortSymbol c) ≠ symbolWord (startSymbol c) ∧ symbolWord (longSymbol c) ≠ symbolWord (startSymbol c) ∧
    symbolWord (spacingSymbol c) ≠ symbolWord (startSymbol c) ∧ symbolWord (longSymbol c) ≠ symbolWord (shortSymbol c) ∧
    symbolWord (spacingSymbol c) ≠ symbolWord (shortSymbol c) ∧
    symbolWord (spacingSymbol c) ≠ symbolWord (longSymbol c) := by
  have w := cfgWf_parts h
  refine ⟨?_, ?_, ?_, ?_, ?_, ?_⟩ <;> intro e <;> have e := symbolWord_inj e
  · exact lowPulse_ne (by omega) e.1
  · exact lowPulse_ne (by omega) e.1
  · exact lowPulse_ne (by omega) e.1
  · exact highPulse_ne (by omega) e.2
  · exact highPulse_ne (by omega) e.2
  · exact highPulse_ne (by omega) e.2

/-! Which row the word of each symbol is (R62). -/

theorem instrOfSymbol_start (c : Cfg) : instrOfSymbol c (symbolWord (startSymbol c)) = some .start := by
  unfold instrOfSymbol
  rw [if_pos rfl]

theorem instrOfSymbol_short (c : Cfg) (h : cfgWf c = true) :
    instrOfSymbol c (symbolWord (shortSymbol c)) = some .short := by
  unfold instrOfSymbol
  rw [if_neg (symbolWord_distinct c h).1]
  generalize symbolWord (shortSymbol c) = n
  rw [if_pos rfl]

theorem instrOfSymbol_long (c : Cfg) (h : cfgWf c = true) : instrOfSymbol c (symbolWord (longSymbol c)) = some .long := by
  unfold instrOfSymbol
  rw [if_neg (symbolWord_distinct c h).2.1, if_neg (symbolWord_distinct c h).2.2.2.1]
  generalize symbolWord (longSymbol c) = n
  rw [if_pos rfl]

theorem instrOfSymbol_spacing (c : Cfg) (h : cfgWf c = true) :
    instrOfSymbol c (symbolWord (spacingSymbol c)) = some .spacing := by
  unfold instrOfSymbol
  rw [if_neg (symbolWord_distinct c h).2.2.1, if_neg (symbolWord_distinct c h).2.2.2.2.1,
    if_neg (symbolWord_distinct c h).2.2.2.2.2]
  generalize symbolWord (spacingSymbol c) = n
  rw [if_pos rfl]

end Sys2Proof
end

