-- ==== Sys2Proof/Laws/Receive.lean ====
section
/-! SUPPORT. The classes of the nominal pulses of the wire symbols, and one pulse fed to a receiver whose queue is empty. -/
namespace Sys2Proof.Machine
open Sys2Proof

/-- A low pulse of the nominal bit length (R62, R94). -/
theorem classify_bitLo {c : Cfg} (h : cfgWf c = true) : classify c (lowPulse c.bitLo) = .bitLo := by
  have w := cfgWf_parts h
  have e : (sat32 c.bitLo).toNat = c.bitLo := by rw [sat32_toNat]; omega
  simp only [classify, lowPulse, within, e, low, high]
  rw [if_neg (by omega), if_pos (by simp)]

/-- A low pulse of the nominal marker length. -/
theorem classify_startLo {c : Cfg} (h : cfgWf c = true) : classify c (lowPulse c.startLo) = .startLo := by
  have w := cfgWf_parts h
  have e : (sat32 c.startLo).toNat = c.startLo := by rw [sat32_toNat]; omega
  simp only [classify, lowPulse, within, e, low, high]
  rw [if_neg (by omega), if_neg (by simp; omega), if_pos (by simp)]

/-- A high pulse of the nominal short length. -/
theorem classify_shortHi {c : Cfg} (h : cfgWf c = true) : classify c (highPulse c.shortHi) = .bitShort := by
  have w := cfgWf_parts h
  have e : (sat32 c.shortHi).toNat = c.shortHi := by rw [sat32_toNat]; omega
  simp only [classify, highPulse, within, e, low, high]
  rw [if_neg (by omega), if_neg (by simp), if_neg (by simp), if_pos (by simp)]

/-- A high pulse of the nominal long length. -/
theorem classify_longHi {c : Cfg} (h : cfgWf c = true) : classify c (highPulse c.longHi) = .bitLong := by
  have w := cfgWf_parts h
  have e : (sat32 c.longHi).toNat = c.longHi := by rw [sat32_toNat]; omega
  simp only [classify, highPulse, within, e, low, high]
  rw [if_neg (by omega), if_neg (by simp), if_neg (by simp), if_neg (by simp; omega), if_pos (by simp)]

/-- A high pulse of the nominal marker length. -/
theorem classify_startHi {c : Cfg} (h : cfgWf c = true) : classify c (highPulse c.startHi) = .startHi := by
  have w := cfgWf_parts h
  have e : (sat32 c.startHi).toNat = c.startHi := by rw [sat32_toNat]; omega
  simp only [classify, highPulse, within, e, low, high]
  rw [if_neg (by omega), if_neg (by simp), if_neg (by simp), if_neg (by simp; omega), if_neg (by simp; omega), if_pos (by simp)]

/-- A pulse of the idle timeout or more, such as the gap, whatever its level. -/
theorem classify_idle {c : Cfg} {p : Pulse} (h : c.idleTimeout ≤ p.duration.toNat) : classify c p = .idle := if_pos h

theorem classify_gap {c : Cfg} (h : cfgWf c = true) : classify c (highPulse c.frameGap) = .idle := by
  have w := cfgWf_parts h
  apply classify_idle
  show _ ≤ (sat32 c.frameGap).toNat
  rw [sat32_toNat]
  omega

/-- A pulse fed to a receiver whose queue is empty is decoded at once (R44, R96). -/
theorem feedPulse_of_drained {s : State} (p : Pulse) (h : s.pq = []) (hc : 1 ≤ s.cfg.pqDepth)
    (hm : isTransmitting s = false) : feedPulse s p = decodeClass (classify s.cfg p) s := by
  rw [feedPulse_of_empty h (Nat.one_le_iff_ne_zero.mp hc)]
  simp [receivePulse, hm]

end Sys2Proof.Machine
end

