-- ==== Sys2Proof/Tests/Slice0.lean ====
section
/-! SUPPORT. Tests: ill-formed terms that well-formedness refuses, words written out from the spec's encodings, single steps
against the vectors of 95_test_vectors.md, and witnesses that the hypotheses of the statements can be met. -/

set_option maxRecDepth 20000

namespace Sys2Proof.Tests
open Sys2Proof.Machine Sys2Proof.Stated

/-! ### Helpers -/

/-- The long frame of 95_test_vectors.md. -/
def frame12 : Bytes := [0x81, 0x01, 0x02, 0x03, 0x04, 0x05, 0x06, 0x07, 0x08, 0x09, 0x0A, 0xB8]

/-- The short frame of 95_test_vectors.md. -/
def frame9 : Bytes := [0xD2, 0x10, 0x20, 0x30, 0x40, 0x50, 0x60, 0x70, 0xC0]

/-- A command frame. -/
def cmd9 : RawFrame := ⟨frame9, .loc, 0⟩

/-- A received frame. -/
def got9 : RawFrame := ⟨frame9, .heater, 5⟩

/-- A low pulse. -/
def lo (n : Nat) : Pulse := ⟨low, BitVec.ofNat 32 n⟩

/-- A high pulse. -/
def hi (n : Nat) : Pulse := ⟨high, BitVec.ofNat 32 n⟩

/-- What a field of the next state is, if there is one. -/
def gives {α : Type} (f : State → α) (i : Instr) (s : State) : Option α :=
  match exec i s with
  | .next t => some (f t)
  | .fault _ => none
  | .refused _ => none

/-- The reason an operation is refused, if it is. -/
def refusal (i : Instr) (s : State) : Option Refusal :=
  match exec i s with
  | .next _ => none
  | .fault _ => none
  | .refused r => some r

/-- The instruction the decoder reads from exactly these bytes. -/
def reads (bytes : Bytes) : Option Instr :=
  match decode Config.default bytes with
  | .ok (i, []) => some i
  | .ok (_, _ :: _) => none
  | .error _ => none

/-- A receiver with these decoder registers, its buffer holding these bytes, at time 450 000 with the last edge at 400 000. -/
def rx (st : DecState) (ph : Phase) (nbytes nbits : Nat) (cur : Byte) (bytes : Bytes) : State :=
  { State.reset with
    now := 450000
    cap := ⟨high, 400000⟩
    dec := ⟨bytes.zipIdx.foldl (fun m b => bufWrite m b.2 b.1) [], nbytes, cur, nbits, st, ph⟩ }

/-- The decoder registers as 95_test_vectors.md writes them. -/
structure DecView where
  state : DecState
  phase : Phase
  nbytes : Nat
  nbits : Nat
  cur : Byte
deriving DecidableEq, Repr

/-- The decoder registers of a state. -/
def decOf (s : State) : DecView := ⟨s.dec.state, s.dec.phase, s.dec.nbytes, s.dec.nbits, s.dec.cur⟩

/-- The events logged. -/
def eventsOf (s : State) : List Event := s.out.log.map LogEntry.event

/-- A receiver at rest at `now`, the controller last seen at `seen`, with these commands queued. -/
def sched (now : Nat) (seen : Option Nat) (cmds : List RawFrame) : State :=
  { State.reset with now := now, arb := { State.reset.arb with lastSeenController := seen }, txq := cmds }

/-- A transmission of `frame9` in segment `pos` of repetition `rep`, driving `lv`, at the time the segment ends. -/
def tx (rep pos : Nat) (lv : Level) : State :=
  { State.reset with
    now := 10009000
    cap := ⟨lv, 10000000⟩
    arb := { State.reset.arb with mode := .transmitting }
    line := ⟨.output, lv, high, lv, 0⟩
    seq := ⟨cmd9, rep, pos, 10009000⟩ }

/-- The reset state with no pin bound. -/
def noPin : State :=
  { State.reset with
    cfg := { Config.default with pinConfigured := false }, arb := { State.reset.arb with cfgErr := true } }

/-! ### Well-formedness refuses each ill-formed term -/

theorem test_wf_pulse_of_another_class :
    ((Instr.decIdle (hi 49999)).wf Config.default || (Instr.decBitLo (lo 1601)).wf Config.default ||
      (Instr.decStartLo (lo 8399)).wf Config.default || (Instr.decBitShort (hi 399)).wf Config.default ||
      (Instr.decBitLong (hi 3601)).wf Config.default || (Instr.decStartHi (hi 5601)).wf Config.default ||
      (Instr.decInvalid (hi 400)).wf Config.default) = false := by decide

theorem test_wf_frame_of_another_length :
    ((Instr.f12 frame9).wf Config.default || (Instr.f9 frame12).wf Config.default) = false := by decide

theorem test_wf_tick_out_of_range :
    ((Instr.tick 0).wf Config.default || (Instr.tick 18446744073709551617).wf Config.default) = false := by decide

theorem test_wf_number_above_a_byte :
    ((Instr.lenClass 256).wf Config.default || (Instr.frameOk .heater 256).wf Config.default) = false := by decide

theorem test_wf_sequence_too_long :
    let bytes : Bytes := List.replicate 256 0
    ((Instr.csum bytes).wf Config.default || (Instr.finalize bytes .heater).wf Config.default ||
      (Instr.hostCmd bytes).wf Config.default || (Instr.hostCsum bytes).wf Config.default) = false := by decide

theorem test_wf_time_stamp_too_large :
    let f : RawFrame := ⟨frame9, .loc, 18446744073709551616⟩
    ((Instr.qEnq (.command f)).wf Config.default || (Instr.qEnq (.received f)).wf Config.default ||
      (Instr.txBegin f).wf Config.default || (Instr.txStart f).wf Config.default || (Instr.txDone f).wf Config.default ||
      (Instr.cmdDropped f).wf Config.default) = false := by decide

theorem test_wf_configuration_too_large :
    (Instr.reset (some { Config.default with repeatCount := 18446744073709551616 })).wf Config.default = false := by decide

theorem test_cfg_each_constraint_is_checked :
    [({ Config.default with tol := 1000 } : Cfg), { Config.default with longHi := 2200 }, { Config.default with startHi := 4200 },
      { Config.default with startLo := 2200 }, { Config.default with idleTimeout := 9600 },
      { Config.default with repeatCount := 0 }, { Config.default with pqDepth := 0 }, { Config.default with rxqDepth := 0 },
      { Config.default with txqDepth := 0 }, { Config.default with frameGap := 49999 },
      { Config.default with worstFrame := 498999 },
      { Config.default with idleTimeout := 4294967296, frameGap := 4294967296, worstFrame := 4295366296 }].all
      (fun c => !cfgWf c) = true ∧
    [Config.default, { Config.default with longHi := 2201 }, { Config.default with startHi := 4201 },
      { Config.default with startLo := 2201 }, { Config.default with idleTimeout := 9601 }].all cfgWf = true := by decide

/-! ### Words written out from the spec's encodings -/

theorem test_decode_pulse_words :
    reads [0x80, 0xA0, 0x86, 0x01, 0x00, 0x01] = some (.decIdle (hi 100000)) ∧
    reads [0x80, 0xE8, 0x03, 0x00, 0x00, 0x00] = some (.decBitLo (lo 1000)) ∧
    reads [0x80, 0x28, 0x23, 0x00, 0x00, 0x00] = some (.decStartLo (lo 9000)) ∧
    reads [0x80, 0x90, 0x01, 0x00, 0x00, 0x01] = some (.decBitShort (hi 400)) ∧
    reads [0x80, 0xB8, 0x0B, 0x00, 0x00, 0x01] = some (.decBitLong (hi 3000)) ∧
    reads [0x80, 0x88, 0x13, 0x00, 0x00, 0x01] = some (.decStartHi (hi 5000)) ∧
    reads [0x80, 0xB8, 0x0B, 0x00, 0x00, 0x00] = some (.decInvalid (lo 3000)) := by decide

theorem test_decode_symbols_and_frames :
    decodeTableWord 66 (0x000002328 * 2 ^ 33 + 0x100001388) = some .start ∧
    decodeTableWord 66 (0x0000003E8 * 2 ^ 33 + 0x1000003E8) = some .short ∧
    decodeTableWord 66 (0x0000003E8 * 2 ^ 33 + 0x100000BB8) = some .long ∧
    decodeTableWord 66 (0x0000003E8 * 2 ^ 33 + 0x1000186A0) = some .spacing ∧
    reads (0x83 :: frame12) = some (.f12 frame12) ∧ reads (0x82 :: frame9) = some (.f9 frame9) := by decide

theorem test_decode_env_and_queue_rows :
    reads [0x00, 0x01] = some (.envLine high) ∧
    reads [0x01, 0xE7, 0x03, 0, 0, 0, 0, 0, 0] = some (.tick 1000) ∧
    reads [0x08] = some .edge ∧
    reads [0x10, 0x00, 0x28, 0x23, 0x00, 0x00, 0x00] = some (.qEnq (.pulse (lo 9000))) ∧
    reads [0x11, 0x01, 0x01] = some (.qDeq .rxq true) ∧
    reads [0x12, 0x02] = some (.qTryDeq .txq) ∧
    reads [0x13, 0x00] = some (.qPeek .pq) ∧
    reads [0x14, 0x00] = some (.qFlush .pq) := by decide

theorem test_decode_rx_rows :
    reads [0x20] = some .rxPulse ∧ reads [0x21] = some .rxTimeout ∧ reads [0x22, 0x01] = some (.pushBit true) ∧
    reads [0x23, 0x01] = some (.complete .restart) ∧ reads [0x24, 0x06] = some (.noise .invalid) ∧
    reads [0x28, 0x09] = some (.lenClass 9) ∧
    reads (0x29 :: 0xFD :: frame9) = some (.csum frame9) ∧
    reads [0x2A] = some .validate ∧
    reads (0x2B :: 0x01 :: 0x00 :: frame12) = some (.finalize frame12 .heater) ∧
    reads [0x2C, 0x00] = some (.arbFrameSeen .controller) := by decide

theorem test_decode_tx_and_host_rows :
    reads [0x30] = some .txSched ∧
    reads (0x31 :: 0x02 :: 0xFD :: frame9 ++ [0, 0, 0, 0, 0, 0, 0, 0]) = some (.txBegin cmd9) ∧
    reads [0x32] = some .txSeg ∧ reads [0x33] = some .txEnd ∧
    reads (0x40 :: 0xFD :: frame9) = some (.hostCmd frame9) ∧
    reads [0x41] = some .hostRxPop ∧ reads [0x42, 0x01] = some (.hostRxWait true) ∧
    reads [0x43, 0x01] = some (.hostSetPassive true) ∧ reads [0x44] = some .hostStatus ∧
    reads (0x45 :: 0xFD :: frame9) = some (.hostCsum frame9) ∧
    reads [0x7F, 0x00] = some (.reset none) := by decide

theorem test_decode_log_rows :
    reads [0x84, 0x01, 0x06] = some (.eNoise .invalid) ∧ reads [0x84, 0x02, 0x00] = some (.eChecksum .timeout) ∧
    reads [0x84, 0x03, 0x01] = some (.eLength .restart) ∧ reads [0x84, 0x04] = some .eOverflow ∧
    reads [0x84, 0x05] = some .eStarved ∧ reads [0x84, 0x06] = some .eConfig ∧ reads [0x84, 0x07] = some .eDomain ∧
    reads [0x84, 0x08, 0x01] = some (.eQdrop .rxq) ∧ reads [0x84, 0x10, 0x01, 0x09] = some (.frameOk .heater 9) ∧
    reads (0x84 :: 0x11 :: 0x02 :: 0xFD :: frame9 ++ [0, 0, 0, 0, 0, 0, 0, 0]) = some (.txStart cmd9) ∧
    reads (0x84 :: 0x12 :: 0x02 :: 0xFD :: frame9 ++ [0, 0, 0, 0, 0, 0, 0, 0]) = some (.txDone cmd9) ∧
    reads (0x84 :: 0x13 :: 0x02 :: 0xFD :: frame9 ++ [0, 0, 0, 0, 0, 0, 0, 0]) = some (.cmdDropped cmd9) := by decide

theorem test_decode_refuses_unassigned_bytes :
    reads [0x02] = none ∧ reads [0x46] = none ∧ reads [0x84, 0x09] = none ∧
    decode Config.default [0x02] = .error (.unknownOp 0x02) ∧ decode Config.default [0x2B] = .error .truncated := by decide

/-- An operand byte that is no code of its field stops nothing: the operand is a free value (log 28). -/
theorem test_decode_free_operand :
    (match decode Config.default [0x22, 0x02] with
      | .ok (.pushBit _, []) => true
      | _ => false) = true := rfl

/-- A word of two pulses that is no nominal symbol (here in-window durations of a start marker, D-37) is fed pulse by pulse
(log 8). -/
theorem test_decode_pair_of_pulses :
    decode Config.default (0x81 :: natBytes 9 (0x0000020D0 * 2 ^ 33 + 0x1000015E0)) =
      .ok (.qEnq (.pulse (lo 8400)), [0x20, 0x10, 0x00, 0xE0, 0x15, 0x00, 0x00, 0x01, 0x20]) := by decide

/-- A bare byte that is both a script number and an event code is the OP row (log 9). -/
theorem test_decode_shared_bytes :
    decodeTableWord 8 0x01 = some (.tick 1) ∧ decodeTableWord 8 0x08 = some .edge ∧
    decodeTableWord 8 0x02 = some (.eChecksum .timeout) ∧
    decodeTableWord 8 0x10 = some (.qEnq (.pulse (lo 0))) ∧ decodeTableWord 8 0x07 = some .eDomain := by decide

/-! ### Capture (vectors K1 to K8, X10) -/

theorem test_envLine_K1 :
    gives (fun t => (t.pq, t.cap, t.out.wakes)) (.envLine high)
      { State.reset with now := 1009000, cap := ⟨low, 1000000⟩, line := ⟨.input, low, low, low, 0⟩ } =
      some ([lo 9000], ⟨high, 1009000⟩, 1) := by decide

theorem test_envLine_K4_saturates :
    gives (fun t => t.pq) (.envLine low) { State.reset with now := 5000000000 } = some [hi 4294967295] := by decide

theorem test_tick_X10 :
    gives (fun t => t.now) (.tick 1000) { tx 0 0 low with now := 10008000 } = some 10009000 ∧
    gives (fun t => (t.now, t.out.result)) (.tick 1001) { tx 0 0 low with now := 10008000 } =
      some (10008000, .notEnabled) := by decide

theorem test_edge_K7_evicts :
    gives (fun t => (t.pq, eventsOf t)) .edge
      { State.reset with
        cfg := { Config.default with pqDepth := 2 }, now := 1000, cap := ⟨low, 0⟩, pq := [lo 1000, hi 1000] } =
      some ([hi 1000, lo 1000], [.qdrop .pq]) := by decide

/-! ### Queues (scenario C; vectors Q1, Q2, Q5, Q8) -/

theorem test_qEnq_scenario_C :
    gives (fun t => (t.pq, eventsOf t)) (.qEnq (.pulse (hi 3000)))
      { State.reset with cfg := { Config.default with pqDepth := 3 }, pq := [lo 9000, hi 5000, lo 1000] } =
      some ([hi 5000, lo 1000, hi 3000], [.qdrop .pq]) := by decide

/-- With no pin `PQ` stays empty (R85). -/
theorem test_no_pin_no_pulse :
    gives (fun t => (t.pq, t.out.result)) (.qEnq (.pulse (lo 9000))) noPin = some ([], .notEnabled) ∧
    gives (fun t => t.rxq) (.f12 frame12) noPin = some [] := by decide

theorem test_qEnq_refuses_another_type : refusal (.qEnq (.received cmd9)) State.reset = some .notOfQueueType := by decide

theorem test_qDeq_oldest :
    gives (fun t => (t.pq, t.out.result)) (.qDeq .pq false) { State.reset with pq := [hi 5000, lo 1000] } =
      some ([lo 1000], .entry (some (.pulse (hi 5000)))) := by decide

theorem test_qTryDeq_Q1_Q2 :
    gives (fun t => t.out.result) (.qTryDeq .rxq) State.reset = some (.entry none) ∧
    gives (fun t => (t.rxq, t.out.taken)) (.qTryDeq .rxq) { State.reset with rxq := [got9] } = some ([], [got9]) := by decide

theorem test_qPeek_Q5 :
    gives (fun t => (t.txq, t.out.result)) (.qPeek .txq) { State.reset with txq := [cmd9, ⟨frame12, .loc, 1⟩] } =
      some ([cmd9, ⟨frame12, .loc, 1⟩], .entry (some (.command cmd9))) := by decide

theorem test_qFlush_Q8 :
    gives (fun t => (t.pq, t.rxq)) (.qFlush .pq) { State.reset with pq := [lo 1, hi 2], rxq := [got9] } =
      some ([], [got9]) := by decide

/-! ### Decoder (vectors D-1 to D-28) -/

theorem test_decStartLo_D1_D16 :
    gives decOf (.decStartLo (lo 9000)) (rx .idle .phNone 0 0 0 []) = some ⟨.idle, .phStartLow, 0, 0, 0⟩ ∧
    gives decOf (.decStartLo (lo 9000)) (rx .started .phNone 12 0 0 frame12) =
      some ⟨.started, .phStartLow, 12, 0, 0⟩ := by decide

theorem test_decStartHi_D2_D3 :
    gives decOf (.decStartHi (hi 5000)) (rx .idle .phStartLow 0 0 0 []) = some ⟨.started, .phNone, 0, 0, 0⟩ ∧
    gives decOf (.decStartHi (hi 5000)) (rx .idle .phNone 0 0 0 []) = some ⟨.idle, .phNone, 0, 0, 0⟩ := by decide

theorem test_decStartHi_D17 :
    gives (fun t => (decOf t, t.rxq)) (.decStartHi (hi 5000)) (rx .started .phStartLow 12 0 0 frame12) =
      some (⟨.started, .phNone, 0, 0, 0⟩, [⟨frame12, .controller, 450000⟩]) := by decide

theorem test_decBitLo_D7_D13 :
    gives decOf (.decBitLo (lo 1000)) (rx .started .phNone 0 0 0 []) = some ⟨.started, .phBitLow, 0, 0, 0⟩ ∧
    gives decOf (.decBitLo (lo 1000)) (rx .started .phBitLow 0 0 0 []) = some ⟨.idle, .phNone, 0, 0, 0⟩ := by decide

theorem test_decBitShort_D9_D12 :
    gives decOf (.decBitShort (hi 1000)) (rx .started .phBitLow 0 1 1 []) = some ⟨.started, .phNone, 0, 2, 2⟩ ∧
    gives eventsOf (.decBitShort (hi 1000)) (rx .started .phNone 3 2 1 []) = some [.noise .bitShort .phNone] := by decide

theorem test_decBitLong_D10 :
    gives (fun t => (decOf t, bufRead t.dec.buf 0)) (.decBitLong (hi 3000)) (rx .started .phBitLow 0 7 0x40 []) =
      some (⟨.started, .phNone, 1, 0, 0⟩, 0x81) := by decide

theorem test_decBitLong_D18 :
    gives (fun t => (decOf t, t.rxq)) (.decBitLong (hi 3000)) (rx .started .phStartLow 12 0 0 frame12) =
      some (⟨.idle, .phNone, 0, 0, 0⟩, []) := by decide

theorem test_decIdle_D20_D28 :
    gives (fun t => (decOf t, t.rxq)) (.decIdle (hi 100000)) (rx .started .phBitLow 12 0 0 frame12) =
      some (⟨.idle, .phNone, 0, 0, 0⟩, [⟨frame12, .controller, 450000⟩]) ∧
    gives decOf (.decIdle (hi 60000)) (rx .idle .phStartLow 0 0 0 []) = some ⟨.idle, .phNone, 0, 0, 0⟩ := by decide

theorem test_decInvalid_D6_D11 :
    gives (fun t => (decOf t, eventsOf t)) (.decInvalid (lo 2000)) (rx .idle .phNone 0 0 0 []) =
      some (⟨.idle, .phNone, 0, 0, 0⟩, []) ∧
    gives (fun t => (decOf t, eventsOf t)) (.decInvalid (lo 2000)) (rx .started .phNone 1 0 0 [0x81]) =
      some (⟨.idle, .phNone, 0, 0, 0⟩, [.noise .invalid .phNone]) := by decide

theorem test_rxPulse_example :
    gives (fun t => (decOf t, t.pq)) .rxPulse { rx .idle .phNone 0 0 0 [] with pq := [lo 9000] } =
      some (⟨.idle, .phStartLow, 0, 0, 0⟩, []) := by decide

theorem test_rxPulse_D27_transmitting :
    gives (fun t => (decOf t, t.pq)) .rxPulse
      { rx .started .phBitLow 3 4 5 [] with arb := { State.reset.arb with mode := .transmitting }, pq := [hi 3000] } =
      some (⟨.started, .phBitLow, 3, 4, 5⟩, []) := by decide

theorem test_rxTimeout_D21_D22 :
    gives (fun t => t.out.result) .rxTimeout { rx .started .phBitLow 12 0 0 frame12 with now := 449999 } = some .notEnabled ∧
    gives (fun t => (decOf t, t.rxq)) .rxTimeout (rx .started .phBitLow 12 0 0 frame12) =
      some (⟨.idle, .phNone, 0, 0, 0⟩, [⟨frame12, .controller, 450000⟩]) := by decide

theorem test_pushBit_D15_overflow :
    gives (fun t => (decOf t, eventsOf t)) (.pushBit false) (rx .started .phBitLow 12 0 0 frame12) =
      some (⟨.idle, .phNone, 0, 0, 0⟩, [.overflow]) := by decide

theorem test_complete_D24_D19 :
    gives (fun t => (decOf t, eventsOf t)) (.complete .timeout) (rx .started .phBitLow 9 3 5 frame9) =
      some (⟨.idle, .phNone, 0, 0, 0⟩, [.length 9 3]) ∧
    gives (fun t => (decOf t, eventsOf t)) (.complete .restart) (rx .started .phStartLow 5 0 0 []) =
      some (⟨.started, .phNone, 0, 0, 0⟩, [.length 5 0]) := by decide

theorem test_noise :
    gives (fun t => (decOf t, eventsOf t)) (.noise .bitShort) (rx .started .phNone 3 2 1 []) =
      some (⟨.idle, .phNone, 0, 0, 0⟩, [.noise .bitShort .phNone]) := by decide

/-! ### Wire symbols and frames (D-2, D-8, D-9, D-33; V1, V4) -/

theorem test_start_symbol :
    gives (fun t => (decOf t, t.pq)) .start (rx .idle .phNone 0 0 0 []) = some (⟨.started, .phNone, 0, 0, 0⟩, []) := by decide

theorem test_short_symbol :
    gives decOf .short (rx .started .phNone 0 1 1 []) = some ⟨.started, .phNone, 0, 2, 2⟩ := by decide

theorem test_long_symbol :
    gives decOf .long (rx .started .phNone 0 0 0 []) = some ⟨.started, .phNone, 0, 1, 1⟩ := by decide

theorem test_spacing_symbol :
    gives (fun t => (decOf t, eventsOf t)) .spacing (rx .started .phNone 10 0 0 []) =
      some (⟨.idle, .phNone, 0, 0, 0⟩, [.length 10 0]) := by decide

theorem test_f12_V1 :
    gives (fun t => t.rxq) (.f12 frame12) (rx .idle .phNone 0 0 0 []) = some [⟨frame12, .controller, 450000⟩] := by decide

theorem test_f9_V4 :
    gives (fun t => t.rxq) (.f9 [0x2D, 0xEF, 0xDF, 0xCF, 0xBF, 0xAF, 0x9F, 0x8F, 0x3F]) (rx .idle .phNone 0 0 0 []) =
      some [⟨frame9, .heater, 450000⟩] := by decide

/-! ### Validator (S9; V2, V10, V12) -/

theorem test_lenClass :
    gives (fun t => t.out.result) (.lenClass 9) State.reset = some (.lenClass .short) ∧
    gives (fun t => t.out.result) (.lenClass 12) State.reset = some (.lenClass .long) := by decide

theorem test_csum_V1_V3 :
    gives (fun t => t.out.result) (.csum frame12) State.reset = some (.byte 0xB8) ∧
    gives (fun t => t.out.result) (.csum frame9) State.reset = some (.byte 0xC0) := by decide

theorem test_validate_V2 :
    gives (fun t => t.rxq) .validate
      (rx .complete .phBitLow 12 0 0 [0x7E, 0xFE, 0xFD, 0xFC, 0xFB, 0xFA, 0xF9, 0xF8, 0xF7, 0xF6, 0xF5, 0x47]) =
      some [⟨frame12, .heater, 450000⟩] := by decide

theorem test_validate_V10 :
    let bytes : Bytes := [0x81, 0x01, 0x02, 0x02, 0x04, 0x05, 0x06, 0x07, 0x08, 0x09, 0x0A, 0xB8]
    gives (fun t => (t.rxq, eventsOf t)) .validate (rx .complete .phBitLow 12 0 0 bytes) = some ([], [.checksum bytes]) := by
  decide

theorem test_finalize_H8 :
    gives (fun t => (t.rxq, eventsOf t)) (.finalize frame12 .controller)
      { State.reset with cfg := { Config.default with rxqDepth := 1 }, now := 2000000, rxq := [got9] } =
      some ([⟨frame12, .controller, 2000000⟩], [.qdrop .rxq, .frameOk .controller 12]) := by decide

theorem test_arbFrameSeen_A13 :
    gives (fun t => (t.arb.lastSeenHeater, t.arb.lastSeenController)) (.arbFrameSeen .heater) (sched 3000000 (some 1000000) []) =
      some (some 3000000, some 1000000) := by decide

/-! ### Arbiter and transmitter (A3, A4, P3; X7 to X9) -/

theorem test_txSched_A4_deferred :
    gives (fun t => (t.txq, t.arb.mode, eventsOf t)) .txSched (sched 60002000 (some 1000000) [cmd9]) =
      some ([cmd9], .receiving, [.starved false false true]) := by decide

theorem test_txSched_A6_starts :
    gives (fun t => (t.txq, t.arb.mode, t.line.level, t.seq, t.pq)) .txSched (sched 61000001 (some 1000000) [cmd9]) =
      some ([], .transmitting, low, ⟨cmd9, 0, 0, 61009001⟩, [hi 61000001]) := by decide

theorem test_txBegin_example :
    gives (fun t => (t.arb.mode, t.line.out, t.seq.deadline)) (.txBegin cmd9) (sched 10000000 (some 1000000) []) =
      some (.transmitting, low, 10009000) := by decide

theorem test_txSeg_example_K8 :
    gives (fun t => (t.seq.pos, t.line.out, t.seq.deadline, t.pq)) .txSeg (tx 0 0 low) =
      some (1, high, 10014000, [lo 9000]) := by decide

theorem test_txSeg_X8 :
    gives (fun t => t.seq) .txSeg (tx 0 147 high) = some ⟨cmd9, 1, 0, 10018000⟩ := by decide

theorem test_txEnd_X9 :
    gives (fun t => t.out.result) .txSeg (tx 1 147 high) = some .notEnabled ∧
    gives (fun t => (t.arb.mode, t.line.dir, t.arb.lastLocalTx, t.cap)) .txEnd (tx 1 147 high) =
      some (.receiving, .input, some 10009000, ⟨high, 10009000⟩) := by decide

/-! ### Host (H1 to H7, V12) -/

theorem test_hostCmd_H1 :
    gives (fun t => (t.txq, eventsOf t)) (.hostCmd frame12) { State.reset with now := 7, txq := [cmd9, cmd9] } =
      some ([cmd9, ⟨frame12, .loc, 7⟩], [.qdrop .txq]) := by decide

theorem test_hostCmd_H2 :
    refusal (.hostCmd [0, 0, 0, 0, 0, 0, 0, 0, 0, 0]) State.reset = some (.frameLength 10) := by decide

theorem test_hostRxPop_H3_H4 :
    gives (fun t => (t.rxq, t.out.result)) .hostRxPop { State.reset with rxq := [got9, ⟨frame12, .controller, 9⟩] } =
      some ([⟨frame12, .controller, 9⟩], .frame (some got9)) ∧
    gives (fun t => t.out.result) .hostRxPop State.reset = some (.frame none) := by decide

theorem test_hostRxWait_Q6_Q7 :
    gives (fun t => t.out.result) (.hostRxWait false) State.reset = some .notEnabled ∧
    gives (fun t => t.out.result) (.hostRxWait true) State.reset = some (.frame none) := by decide

theorem test_hostSetPassive_H5 :
    gives (fun t => (t.arb.passive, t.arb.mode)) (.hostSetPassive true) (tx 0 0 low) = some (true, .transmitting) := by decide

theorem test_hostStatus :
    gives (fun t => t.out.result) .hostStatus (sched 5 (some 3) [cmd9]) =
      some (.status ⟨.receiving, false, false, none, some 3, none, 0, 1, 0⟩) := by decide

theorem test_hostCsum_V12 :
    gives (fun t => t.out.result) (.hostCsum [0xD2, 0x10, 0x20, 0x30, 0x40, 0x50, 0x60, 0x70, 0x00]) State.reset =
      some (.byte 0xC0) ∧
    refusal (.hostCsum []) State.reset = some (.frameLength 0) := by decide

theorem test_reset_H6 :
    gives (fun t => (t.arb.cfgErr, eventsOf t)) (.reset (some { Config.default with pinConfigured := false })) State.reset =
      some (true, [.config]) := by decide

theorem test_reset_H7 :
    gives (fun t => (t.line.dir, t.arb.mode, t.txq, t.cap, t.arb.tReset)) (.reset none) { tx 0 0 low with txq := [cmd9] } =
      some (.input, .receiving, [], ⟨high, 10009000⟩, 10009000) := by decide

/-! ### The log (D-11, D-15, D-24, D-26; A4, P5) -/

theorem test_eNoise :
    gives (fun t => (decOf t, eventsOf t)) (.eNoise .invalid) (rx .started .phNone 1 0 0 []) =
      some (⟨.idle, .phNone, 0, 0, 0⟩, [.noise .invalid .phNone]) := by decide

theorem test_eChecksum_D26 :
    let bytes : Bytes := [0x81, 0x01, 0x02, 0x02, 0x04, 0x05, 0x06, 0x07, 0x08, 0x09, 0x0A, 0xB8]
    gives (fun t => (decOf t, eventsOf t)) (.eChecksum .timeout) (rx .started .phNone 12 0 0 bytes) =
      some (⟨.idle, .phNone, 0, 0, 0⟩, [.checksum bytes]) := by decide

theorem test_eLength_D24 :
    gives (fun t => (decOf t, eventsOf t)) (.eLength .timeout) (rx .started .phBitLow 9 3 5 frame9) =
      some (⟨.idle, .phNone, 0, 0, 0⟩, [.length 9 3]) := by decide

theorem test_eOverflow_D15 :
    gives (fun t => (decOf t, eventsOf t)) .eOverflow (rx .started .phBitLow 12 0 0 frame12) =
      some (⟨.idle, .phNone, 0, 0, 0⟩, [.overflow]) := by decide

theorem test_eStarved_A9 :
    gives eventsOf .eStarved
      { sched 5999999 (some 1000000) [cmd9] with
        arb := { State.reset.arb with lastSeenController := some 1000000, lastLocalTx := some 5000000 } } =
      some [.starved false true false] := by decide

theorem test_eConfig :
    gives (fun t => (t.arb.cfgErr, eventsOf t)) .eConfig { noPin with arb := { noPin.arb with cfgErr := false } } =
      some (true, [.config]) ∧
    gives (fun t => t.out.result) .eConfig noPin = some .notEnabled := by decide

theorem test_eDomain : gives (fun t => t) .eDomain State.reset = some State.reset := by decide

theorem test_eQdrop :
    gives eventsOf (.eQdrop .txq) { State.reset with txq := [cmd9, cmd9] } = some [.qdrop .txq] ∧
    gives eventsOf (.eQdrop .txq) State.reset = some [] := by decide

theorem test_frameOk : gives eventsOf (.frameOk .heater 9) State.reset = some [.frameOk .heater 9] := by decide

theorem test_txStart : gives eventsOf (.txStart cmd9) State.reset = some [.txStart cmd9] := by decide

theorem test_txDone : gives eventsOf (.txDone cmd9) State.reset = some [.txDone cmd9] := by decide

theorem test_cmdDropped_P5 :
    gives (fun t => (t.txq, t.arb.mode, eventsOf t)) .txSched { noPin with txq := [cmd9] } =
      some ([], .receiving, [.cmdDropped cmd9]) ∧
    gives eventsOf (.cmdDropped cmd9) State.reset = some [.cmdDropped cmd9] := by decide

/-! ### A step -/

/-- What a step answers, through a field of the next state. -/
def steps {α : Type} (f : State → α) (s : State) : Option α :=
  match step s with
  | .next t => some (f t)
  | .fault _ => none
  | .refused _ => none

theorem test_step_runs_the_first_instruction :
    steps (fun t => (t.arb.passive, t.script)) { State.reset with script := [0x43, 0x01, 0x44] } = some (true, [0x44]) ∧
    steps (fun t => t.arb.passive) ((State.reset.withFetchWord 8 0x44)) = some false ∧
    steps (fun t => t.dec.phase) (State.reset.withFetchWord 33 0x000002328) = some .phStartLow := by decide

/-! ### The hypotheses of the statements can be met

Each theorem below names the statement whose hypotheses it meets, clause by clause, with operands at the ends of their range.
`atRest` is a receiver long after its last edge; `inFrame` receives; `tx` transmits. -/

/-- A receiver at rest, long after the last edge. -/
def atRest : State := { State.reset with now := 60000001 }

/-- A receiver in the middle of a frame. -/
def inFrame : State := rx .started .phNone 12 0 0 frame12

/-- A transmission at the end of its first segment, with `TX_SEG` next. -/
def sending : State := { tx 0 0 low with script := [0x32] }

theorem inv_sending : BlockInv sending where
  cfg := by decide
  cfgErr := by decide
  disabled := fun h => absurd h (by decide)
  dec := ⟨by decide, by decide, by decide, by decide, by decide, by decide⟩
  line := ⟨by decide, by decide, by decide, by decide, by decide⟩
  seq := fun _ => ⟨by decide, by decide, by decide, by decide, by decide, by decide, by decide⟩
  queue := ⟨by decide, by decide, by decide, by decide, by decide⟩
  time := ⟨by decide, by decide, by decide, trivial, trivial, trivial⟩

theorem inv_inFrame : BlockInv inFrame where
  cfg := by decide
  cfgErr := by decide
  disabled := fun h => absurd h (by decide)
  dec := ⟨by decide, by decide, by decide, by decide, by decide, by decide⟩
  line := ⟨by decide, by decide, by decide, by decide, by decide⟩
  seq := fun h => absurd h (by decide)
  queue := ⟨by decide, by decide, by decide, by decide, by decide⟩
  time := ⟨by decide, by decide, by decide, trivial, trivial, trivial⟩

theorem resting_atRest : Resting atRest where
  inv :=
    { cfg := by decide
      cfgErr := by decide
      disabled := fun h => absurd h (by decide)
      dec := ⟨by decide, by decide, by decide, by decide, by decide, by decide⟩
      line := ⟨by decide, by decide, by decide, by decide, by decide⟩
      seq := fun h => absurd h (by decide)
      queue := ⟨by decide, by decide, by decide, by decide, by decide⟩
      time := ⟨by decide, by decide, by decide, trivial, trivial, trivial⟩ }
  pin := by decide
  receiving := by decide
  idle := by decide
  phase := by decide
  drained := by decide

theorem witness_DecodeOfEncode :
    cfgWf Config.default = true ∧ (Instr.tick 1).wf Config.default = true ∧
    (Instr.tick 18446744073709551616).wf Config.default = true ∧ (Instr.lenClass 255).wf Config.default = true ∧
    (Instr.f9 frame9).wf Config.default = true ∧ (Instr.reset (some Config.default)).wf Config.default = true ∧
    (Instr.txBegin ⟨[], .unknown, 18446744073709551615⟩).wf Config.default = true := by decide

theorem witness_StepRunsTheDecodedInstruction :
    State.reset.script = [] ∧
    (Instr.hostSetPassive true).wf Config.default = true ∧
    (match decode Config.default [0x43, 0x01] with
      | .ok (i, rest) => decide (i = .hostSetPassive true ∧ rest = [])
      | .error _ => false) = true ∧
    (match exec (.hostSetPassive true) State.reset with
      | .next t => contention t
      | .fault _ => true
      | .refused _ => true) = false ∧
    (match decode Config.default [0x46] with
      | .ok _ => false
      | .error e => decide (e = .unknownOp 0x46)) = true := by decide

/-- A contended step: another talker pulls the line low while the block drives it. -/
def contended : State := { tx 0 0 high with line := ⟨.output, high, low, low, 3⟩, script := [0x43, 0x01] }

theorem witness_OneDrawPerContendedStep :
    (contended.script ≠ [] ∧ ∃ t, step contended = .next t ∧ contention t = true) ∧
    ∃ t, step { State.reset with script := [0x44] } = .next t ∧ contention t = false := by
  refine ⟨⟨by decide, _, rfl, ?_⟩, _, rfl, by decide⟩
  have h := contendLine_lineFrame 3 { contended with arb := { contended.arb with passive := true }, script := [] }
  show contention (contendLine 3 { contended with arb := { contended.arb with passive := true }, script := [] }) = true
  rw [contention, h.dir, h.ext]
  rfl

theorem witness_ClassifierWindows_and_DurationOnce :
    cfgWf Config.default = true ∧ frame9.length = 9 ∧ frame12.length = 12 ∧
    [lo 399, lo 400, lo 1600, lo 1601, lo 8399, lo 8400, lo 9600, lo 9601, lo 49999, lo 50000].map (classify Config.default) =
      [.invalid, .bitLo, .bitLo, .invalid, .invalid, .startLo, .startLo, .invalid, .invalid, .idle] ∧
    [hi 399, hi 400, hi 1600, hi 1601, hi 2399, hi 2400, hi 3600, hi 3601, hi 4399, hi 4400, hi 5600, hi 5601].map
        (classify Config.default) =
      [.invalid, .bitShort, .bitShort, .invalid, .invalid, .bitLong, .bitLong, .invalid, .invalid, .startHi, .startHi,
        .invalid] ∧
    (let c := Config.default;
      c.bitLo + c.tol + 1 < c.startLo - c.tol ∧ c.shortHi + c.tol + 1 < c.longHi - c.tol ∧
      c.longHi + c.tol + 1 < c.startHi - c.tol ∧ (hi 1601).duration.toNat = c.shortHi + c.tol + 1) ∧
    (let c := { Config.default with longHi := 2201 };
      cfgWf c = true ∧ [hi 1600, hi 1601].map (classify c) = [.bitShort, .bitLong]) ∧
    (let c := { Config.default with idleTimeout := 9601 };
      cfgWf c = true ∧ [lo 8399, lo 9600, lo 9601].map (classify c) = [.invalid, .startLo, .idle]) ∧
    durOnce Config.default frame9 = 295000 ∧ durOnce Config.default frame12 = 353000 := by decide

/-- The clauses of `LineSettles`: a released line, a driven line with and without contention, a changed and an unchanged
level. -/
theorem witness_LineSettles :
    State.reset.line.dir = .input ∧ ((tx 0 0 high).line.dir = .output ∧ (tx 0 0 high).line.ext = high) ∧
    (contended.line.dir = .output ∧ contended.line.ext = low) ∧
    (relevel { State.reset with line := ⟨.input, low, low, high, 0⟩ }).line.level ≠ high ∧
    (relevel State.reset).line.level = State.reset.line.level := by decide

theorem witness_EnvLine :
    low ≠ State.reset.line.ext ∧ State.reset.line.dir = .input ∧ State.reset.line.level = State.reset.line.ext ∧
    State.reset.cap.lastLevel = State.reset.line.level ∧ State.reset.cfg.pinConfigured = true ∧
    State.reset.pq.length < State.reset.cfg.pqDepth ∧
    (low ≠ noPin.line.ext ∧ noPin.line.dir = .input ∧ noPin.cfg.pinConfigured = false) := by decide

theorem witness_Tick :
    (0 < 1 ∧ (State.reset.now + 18446744073709551615 ≤ 18446744073709551615) ∧
      18446744073709551615 < State.reset.now + 18446744073709551616) ∧
    (let s := { tx 0 0 low with now := 10008000 };
      s.arb.mode = .transmitting ∧ s.now + 1000 ≤ s.seq.deadline ∧ s.seq.deadline < s.now + 1001 ∧
        gives (fun t => t.now) (.tick 1001) s = some s.now) := by decide

theorem witness_Edge :
    let s := { State.reset with line := ⟨.input, low, low, low, 0⟩ }
    s.cfg.pinConfigured = true ∧ s.line.level ≠ s.cap.lastLevel := by decide

theorem witness_TimeConfigurationAndLog :
    ((∃ t, exec (.tick 1) State.reset = .next t) ∧ (∃ t, exec (.reset (some Config.default)) State.reset = .next t)) ∧
    ∃ t, exec (.hostCmd frame9) { State.reset with txq := [cmd9, cmd9] } = .next t :=
  ⟨⟨⟨_, rfl⟩, ⟨_, rfl⟩⟩, ⟨_, rfl⟩⟩

theorem witness_QueueEnqueue :
    receivedOk got9 = true ∧ receivedOk ⟨frame12, .controller, 0⟩ = true ∧ commandOk cmd9 = true ∧
    commandOk ⟨frame12, .loc, 0⟩ = true ∧ State.reset.cfg.pinConfigured = true := by decide

theorem witness_QueueRead_and_HostFetch :
    let s := { inFrame with pq := [lo 1], rxq := [got9], txq := [cmd9] }
    s.pq = lo 1 :: [] ∧ s.rxq = got9 :: [] ∧ s.txq = cmd9 :: [] ∧ State.reset.pq = [] ∧ State.reset.rxq = [] ∧
    State.reset.txq = [] := by decide

theorem witness_HostFetch_invariant : BlockInv { inFrame with rxq := [got9] } :=
  { inv_inFrame with
    disabled := fun h => absurd h (by decide)
    line := ⟨by decide, by decide, by decide, by decide, by decide⟩
    seq := fun h => absurd h (by decide)
    queue := ⟨by decide, by decide, by decide, by decide, by decide⟩
    time := ⟨by decide, by decide, by decide, trivial, trivial, trivial⟩ }

theorem witness_BoundedQueueKeepsTheNewest :
    1 ≤ 3 ∧ [lo 1, lo 2, lo 3].length ≤ 3 ∧ [got9].length ≤ 1 := by decide

/-- The premises of the seven decoder rows, of `NOISE` and of `COMPLETE`, in each state and phase. -/
theorem witness_decoder_rows :
    ([Phase.phNone, .phStartLow, .phBitLow].all (fun ph =>
      decide ((rx .idle ph 0 0 0 []).cfg.pinConfigured = true ∧ (rx .started ph 12 0 0 frame12).cfg.pinConfigured = true ∧
        (rx .idle ph 0 0 0 []).arb.mode = .receiving ∧ (rx .idle ph 0 0 0 []).dec.state = .idle ∧
        (rx .started ph 12 0 0 frame12).arb.mode = .receiving ∧ (rx .started ph 12 0 0 frame12).dec.state = .started ∧
        (rx .started ph 12 0 0 frame12).dec.phase = ph))) = true := by decide

theorem witness_RxPulse_and_table :
    let s := { inFrame with pq := [hi 3000, lo 1000] }
    s.cfg.pinConfigured = true ∧ s.pq = hi 3000 :: [lo 1000] ∧ s.arb.mode = .receiving ∧ s.dec.state ≠ .complete ∧
    ({ tx 0 0 low with pq := [lo 9000] }).arb.mode = .transmitting ∧
    (inFrame.dec.state = .started ∧ inFrame.pq = [] ∧ inFrame.cfg.idleTimeout ≤ inFrame.now - inFrame.cap.lastEdge) ∧
    State.reset.dec.state = .idle := by decide

theorem witness_RxTimeout :
    (inFrame.arb.mode = .receiving ∧ inFrame.dec.state = .started ∧ inFrame.pq = [] ∧
      inFrame.cfg.idleTimeout = inFrame.now - inFrame.cap.lastEdge) ∧
    timeoutEnabled inFrame = true ∧ timeoutEnabled { inFrame with now := 449999 } = false := by decide

theorem witness_PushBit :
    (inFrame.arb.mode = .receiving ∧ inFrame.dec.state = .started ∧ inFrame.dec.nbytes = 12) ∧
    (let s := rx .started .phBitLow 11 6 0x2A frame12;
      s.dec.nbytes ≠ 12 ∧ s.dec.nbits ≠ 7 ∧ s.dec.state = .started ∧ s.arb.mode = .receiving) ∧
    (let s := rx .started .phBitLow 11 7 0x55 frame12;
      s.dec.nbytes < 12 ∧ s.dec.nbits = 7 ∧ Memory.wf s.dec.buf = true ∧ s.dec.state = .started) := by decide

theorem witness_EightBitsAppendTheirByte :
    let s := rx .started .phNone 11 0 0 frame12
    s.arb.mode = .receiving ∧ s.dec.state = .started ∧ s.dec.nbytes < 12 ∧ s.dec.nbits = 0 ∧ s.dec.cur = 0 := by decide

/-- The three verdicts on a whole frame in flight, and the two ways a frame is not whole. -/
theorem witness_Complete_and_error_rows :
    (inFrame.dec.nbytes = 12 ∧ inFrame.dec.nbits = 0 ∧ validSum (candidate inFrame) = true) ∧
    (let s := rx .started .phBitLow 9 0 0 (complementBytes frame9);
      s.dec.nbytes = 9 ∧ validSum (candidate s) = false ∧ validSum (complementBytes (candidate s)) = true) ∧
    (let s := rx .started .phBitLow 9 0 0 [0xD2, 0x10, 0x20, 0x30, 0x40, 0x50, 0x60, 0x70, 0x92];
      s.arb.mode = .receiving ∧ s.dec.state = .started ∧ validSum (candidate s) = false ∧
        validSum (complementBytes (candidate s)) = false) ∧
    (let s := rx .started .phBitLow 12 1 0 frame12;
      ¬ ((s.dec.nbytes = 9 ∨ s.dec.nbytes = 12) ∧ s.dec.nbits = 0)) ∧
    (let s := rx .started .phBitLow 8 0 0 frame9;
      ¬ ((s.dec.nbytes = 9 ∨ s.dec.nbytes = 12) ∧ s.dec.nbits = 0)) := by decide

theorem witness_ErrorRows :
    starves (sched 60002000 (some 1000000) [cmd9]) = true ∧
    (noPin.cfg.pinConfigured = false ∧ ({ noPin.arb with cfgErr := false } : Arb).cfgErr = false) ∧
    (let s := { State.reset with
        cfg := { Config.default with pqDepth := 1, rxqDepth := 1, txqDepth := 1 }, pq := [lo 1], rxq := [got9], txq := [cmd9] };
      s.pq.length = s.cfg.pqDepth ∧ s.rxq.length = s.cfg.rxqDepth ∧ s.txq.length = s.cfg.txqDepth) := by decide

theorem witness_TransmittingBlindsTheReceiver :
    (tx 0 0 low).arb.mode = .transmitting ∧ ∃ t, exec .txSeg (tx 0 0 low) = .next t := ⟨by decide, _, rfl⟩

theorem witness_TrainFillsTheBuffer :
    Resting atRest ∧ legalLen frame9.length = true ∧ legalLen frame12.length = true ∧
    ((startSymbol Config.default ++ frame9.flatMap (byteTrain Config.default) ++ [lowPulse 1600]).map
      (classify atRest.cfg) = trainClasses atRest.cfg.longBit (wireBits frame9)) ∧
    classify atRest.cfg (hi 50000) = .idle ∧ atRest.cfg.idleTimeout ≤ atRest.now - atRest.cap.lastEdge :=
  ⟨resting_atRest, by decide, by decide, by decide, by decide, by decide⟩

theorem witness_WireSymbolsInContext :
    cfgWf State.reset.cfg = true ∧ State.reset.cfg.pinConfigured = true ∧ State.reset.arb.mode = .receiving ∧ State.reset.pq = [] ∧ State.reset.dec.state = .idle ∧
    inFrame.arb.mode = .receiving ∧ inFrame.pq = [] ∧ inFrame.dec.state = .started ∧ inFrame.dec.phase = .phNone := by decide

theorem witness_WholeFrameIsReceived :
    Resting atRest ∧ (frame12.length = 12 ∧ frame9.length = 9) ∧ validSum frame12 = true ∧
    validSum (complementBytes (complementBytes frame9)) = true ∧
    (let bad : Bytes := [0xD2, 0x10, 0x20, 0x30, 0x40, 0x50, 0x60, 0x70, 0x92];
      bad.length = 9 ∧ validSum bad = false ∧ validSum (complementBytes bad) = false) :=
  ⟨resting_atRest, by decide, by decide, by decide, by decide⟩

theorem witness_FrameOnTheLine_and_LoopBack :
    Resting atRest ∧ atRest.line.ext = high ∧ legalLen frame12.length = true ∧
    validSum frame12 = true ∧ atRest.now + durOnce atRest.cfg frame12 ≤ 18446744073709551615 :=
  ⟨resting_atRest, by decide, by decide, by decide, by decide⟩

theorem witness_lengths : [8, 9, 10, 11, 12, 13].map legalLen = [false, true, false, false, true, false] := by decide

theorem witness_polarity :
    validSum frame9 = true ∧ validSum (complementBytes (complementBytes frame12)) = true ∧
    (let bad : Bytes := [0xD2, 0x10, 0x20, 0x30, 0x40, 0x50, 0x60, 0x70, 0x92];
      validSum bad = false ∧ validSum (complementBytes bad) = false) := by decide

theorem witness_Validate :
    (let s := rx .complete .phBitLow 12 0 0 frame12;
      s.dec.state = .complete ∧ s.dec.nbytes = 12 ∧ s.dec.nbits = 0 ∧ validSum (candidate s) = true) ∧
    (let s := rx .complete .phBitLow 9 0 0 (complementBytes frame9);
      s.dec.state = .complete ∧ s.dec.nbytes = 9 ∧ s.dec.nbits = 0 ∧ validSum (candidate s) = false ∧
        validSum (complementBytes (candidate s)) = true) ∧
    (let s := rx .complete .phBitLow 9 0 0 [0xD2, 0x10, 0x20, 0x30, 0x40, 0x50, 0x60, 0x70, 0x92];
      validSum (candidate s) = false ∧ validSum (complementBytes (candidate s)) = false) := by decide

theorem witness_Finalize_and_pin :
    legalLen frame9.length = true ∧ validSum frame9 = true ∧ State.reset.cfg.pinConfigured = true := by decide

theorem witness_TransmissionPrecondition :
    (let s := sched 60001999 (some 1000000) [];
      txAllowed s = true ∧ budgetOk s = true ∧ controllerAbsent s = false) ∧
    (let s := sched 61000001 (some 1000000) [];
      txAllowed s = true ∧ budgetOk s = false ∧ controllerAbsent s = true) ∧
    (txAllowed (sched 60000000 none []) = false ∧ txAllowed (sched 60000001 none []) = true) := by decide

theorem witness_TxSched :
    (let s := sched 61000001 (some 1000000) [cmd9];
      s.arb.mode = .receiving ∧ s.txq = cmd9 :: [] ∧ s.cfg.pinConfigured = true ∧ s.arb.passive = false ∧
        txAllowed s = true) ∧
    (let s := sched 61000000 (some 1000000) [cmd9];
      s.arb.passive = false ∧ txAllowed s = false) ∧
    noPin.cfg.pinConfigured = false ∧
    ({ State.reset.arb with passive := true } : Arb).passive = true := by decide

/-- The guard window at its two ends, and just outside; and the first period after reset. -/
theorem witness_GuardWindow :
    (let s := sched 60002000 (some 1000000) [cmd9];
      s.arb.mode = .receiving ∧ s.txq = cmd9 :: [] ∧ s.cfg.pinConfigured = true ∧ s.arb.passive = false ∧ 1000000 ≤ s.now ∧
        1000000 + s.cfg.controllerPeriod = s.now + s.cfg.repeatCount * s.cfg.worstFrame) ∧
    (let s := sched 61000000 (some 1000000) [cmd9];
      s.now = 1000000 + s.cfg.controllerPeriod) ∧
    (let s := sched 60001999 (some 1000000) [cmd9];
      s.now + s.cfg.repeatCount * s.cfg.worstFrame < 1000000 + s.cfg.controllerPeriod) ∧
    (let s := sched 60000000 none [cmd9];
      s.now = s.arb.tReset + s.cfg.controllerPeriod) := by decide

theorem witness_ModeMoves :
    gives (fun t => t.arb.mode) .txSched (sched 61000001 (some 1000000) [cmd9]) = some .transmitting ∧
    gives (fun t => t.arb.mode) .txEnd (tx 1 147 high) = some .receiving ∧
    gives (fun t => t.arb.mode) (.reset none) (tx 0 0 low) = some .receiving := by decide

theorem witness_TxBegin :
    let s := sched 61000001 (some 1000000) []
    s.arb.mode = .receiving ∧ s.cfg.pinConfigured = true ∧ s.arb.passive = false ∧ txAllowed s = true ∧ commandOk cmd9 = true ∧
      s.line.ext = high ∧ s.line.level = high ∧ s.cap.lastLevel = high ∧ s.pq.length < s.cfg.pqDepth := by decide

theorem witness_TxSeg_and_TxEnd :
    (let s := tx 0 146 low;
      s.arb.mode = .transmitting ∧ s.now = s.seq.deadline ∧ s.seq.pos < 16 * s.seq.frame.bytes.length + 3) ∧
    (let s := tx 0 147 high;
      s.seq.pos = 16 * s.seq.frame.bytes.length + 3 ∧ s.seq.rep + 1 ≠ s.cfg.repeatCount) ∧
    (let s := tx 1 147 high;
      s.arb.mode = .transmitting ∧ s.now = s.seq.deadline ∧ s.seq.pos = 16 * s.seq.frame.bytes.length + 3 ∧
        s.seq.rep + 1 = s.cfg.repeatCount) := by decide

/-- A receiver at rest with a command queued. -/
def readyToSend : State := { atRest with txq := [cmd9] }

theorem witness_WholeTransmission :
    BlockInv readyToSend ∧ readyToSend.arb.mode = .receiving ∧ readyToSend.txq = cmd9 :: [] ∧
    readyToSend.cfg.pinConfigured = true ∧ readyToSend.arb.passive = false ∧ txAllowed readyToSend = true ∧
    readyToSend.line.ext = high ∧
    readyToSend.now + readyToSend.cfg.repeatCount * durOnce readyToSend.cfg cmd9.bytes ≤ 18446744073709551615 :=
  ⟨{ cfg := by decide
     cfgErr := by decide
     disabled := fun h => absurd h (by decide)
     dec := ⟨by decide, by decide, by decide, by decide, by decide, by decide⟩
     line := ⟨by decide, by decide, by decide, by decide, by decide⟩
     seq := fun h => absurd h (by decide)
     queue := ⟨by decide, by decide, by decide, by decide, by decide⟩
     time := ⟨by decide, by decide, by decide, trivial, trivial, trivial⟩ },
   by decide, by decide, by decide, by decide, by decide, by decide, by decide⟩

theorem witness_Reset :
    cfgWf { Config.default with pinConfigured := false } = true ∧ cfgWf Config.default = true ∧
    cfgWf { Config.default with repeatCount := 0 } = false := by decide

/-- The premises of the waiting clauses: both modes, empty queues, an unbound pin, values of another type. -/
theorem witness_NotEnabledOperationsWait :
    (State.reset.arb.mode = .receiving ∧ State.reset.pq = [] ∧ State.reset.rxq = [] ∧ State.reset.txq = [] ∧
      State.reset.dec.state ≠ .started ∧ State.reset.dec.state ≠ .complete ∧ timeoutEnabled State.reset = false ∧
      State.reset.line.level = State.reset.cap.lastLevel) ∧
    ((tx 0 0 low).arb.mode = .transmitting ∧ (tx 0 0 low).seq.deadline < (tx 0 0 low).now + 1) ∧
    (receivedOk cmd9 = false ∧ commandOk got9 = false ∧ receivedOk ⟨frame9, .loc, 0⟩ = false) ∧
    ((tx 1 147 high).seq.pos = 16 * (tx 1 147 high).seq.frame.bytes.length + 3 ∧
      (tx 1 147 high).seq.rep + 1 = (tx 1 147 high).cfg.repeatCount) ∧
    (tx 0 0 low).seq.pos ≠ 16 * (tx 0 0 low).seq.frame.bytes.length + 3 ∧
    (State.reset.cfg.pinConfigured = true ∧ noPin.arb.cfgErr = true ∧ noPin.cfg.pinConfigured = false) ∧
    (inFrame.dec.nbytes = 12 ∧ inFrame.dec.nbits = 0 ∧ validSum (candidate inFrame) = true) ∧
    (let s := rx .complete .phBitLow 11 0 0 frame12;
      ¬ ((s.dec.nbytes = 9 ∨ s.dec.nbytes = 12) ∧ s.dec.nbits = 0) ∧ s.dec.nbytes ≠ 12) ∧
    (State.reset.pq.length ≠ State.reset.cfg.pqDepth ∧ State.reset.rxq.length ≠ State.reset.cfg.rxqDepth ∧
      State.reset.txq.length ≠ State.reset.cfg.txqDepth) := by decide

/-- The invariant holds with no pin bound, too. -/
theorem inv_noPin : BlockInv noPin where
  cfg := by decide
  cfgErr := by decide
  disabled := fun _ => ⟨by decide, by decide, by decide, by decide, by decide, by decide⟩
  dec := ⟨by decide, by decide, by decide, by decide, by decide, by decide⟩
  line := ⟨by decide, by decide, by decide, by decide, by decide⟩
  seq := fun h => absurd h (by decide)
  queue := ⟨by decide, by decide, by decide, by decide, by decide⟩
  time := ⟨by decide, by decide, by decide, trivial, trivial, trivial⟩

theorem witness_StepKeepsInv :
    BlockInv sending ∧ (∃ t, step sending = .next t) ∧
    steps (fun t => (t.seq.pos, t.line.level)) sending = some (1, high) :=
  ⟨inv_sending, ⟨_, rfl⟩, by decide⟩

end Sys2Proof.Tests
end

/-! ## Proofs: 00_scope.md -/

/-! ### The flags as propositions

Each one-bit condition of Machine/Flags.lean, in the terms in which the statements write it. -/
namespace Sys2Proof.Machine

theorem isReceiving_eq_false {s : State} : isReceiving s = false ↔ s.arb.mode = .transmitting := by
  cases h : s.arb.mode <;> simp [isReceiving, h]

theorem isTransmitting_eq_false {s : State} : isTransmitting s = false ↔ s.arb.mode = .receiving := by
  cases h : s.arb.mode <;> simp [isTransmitting, h]

theorem inFlight_eq_false {s : State} :
    inFlight s = false ↔ s.arb.mode = .transmitting ∨ s.dec.state ≠ .started := by
  simp [inFlight, started, isReceiving_eq_false, Bool.and_eq_false_iff, -Bool.and_eq_false_imp]

theorem wholeFrame_iff {s : State} :
    wholeFrame s = true ↔ (s.dec.nbytes = 9 ∨ s.dec.nbytes = 12) ∧ s.dec.nbits = 0 := by
  simp [wholeFrame, legalLen]

theorem tickEnabled_zero (s : State) : tickEnabled 0 s = false := by simp [tickEnabled]

/-- While Transmitting no tick passes the segment boundary (R83, R168). -/
theorem tickEnabled_past_deadline {dt : Nat} {s : State} (hm : s.arb.mode = .transmitting)
    (hd : s.seq.deadline < s.now + dt) : tickEnabled dt s = false := by
  simp [tickEnabled, isReceiving_eq_false.mpr hm, hd]

theorem edgeEnabled_eq_false {s : State} :
    edgeEnabled s = false ↔ s.cfg.pinConfigured = false ∨ s.line.level = s.cap.lastLevel := by
  simp [edgeEnabled, Bool.and_eq_false_iff, -Bool.and_eq_false_imp]

theorem atDeadline_eq_false {s : State} :
    atDeadline s = false ↔ s.arb.mode = .receiving ∨ s.now ≠ s.seq.deadline := by
  simp [atDeadline, isTransmitting_eq_false, Bool.and_eq_false_iff, -Bool.and_eq_false_imp]

theorem atLastSegment_iff {s : State} :
    atLastSegment s = true ↔
      s.seq.pos = 16 * s.seq.frame.bytes.length + 3 ∧ s.seq.rep + 1 = s.cfg.repeatCount := by
  simp [atLastSegment, lastSeg]

theorem atLastSegment_eq_false {s : State} :
    atLastSegment s = false ↔
      s.seq.pos ≠ 16 * s.seq.frame.bytes.length + 3 ∨ s.seq.rep + 1 ≠ s.cfg.repeatCount := by
  rw [← Bool.not_eq_true, atLastSegment_iff, not_and_or]

theorem mayTransmit_eq_false {s : State} :
    mayTransmit s = false ↔ s.cfg.pinConfigured = false ∨ s.arb.passive = true ∨ txAllowed s = false := by
  simp [mayTransmit, Bool.and_eq_false_iff, -Bool.and_eq_false_imp, or_assoc]

theorem starves_eq_false {s : State} :
    starves s = false ↔ s.arb.mode = .transmitting ∨ s.txq = [] ∨ s.cfg.pinConfigured = false ∨
      s.arb.passive = true ∨ txAllowed s = true := by
  simp [starves, schedEnabled, isReceiving_eq_false, Bool.and_eq_false_iff, -Bool.and_eq_false_imp, or_assoc]

/-- `VALIDATE` has a verdict exactly where the frame is valid in one of the polarities (R125). -/
theorem verdict_ne_none {bytes : Bytes} :
    verdict bytes ≠ none ↔ validSum bytes = true ∨ validSum (complementBytes bytes) = true := by
  cases hd : validSum bytes <;> cases hc : validSum (complementBytes bytes) <;> simp [verdict, hd, hc]

theorem queueFull_pq_eq_false {s : State} : queueFull .pq s = false ↔ s.pq.length ≠ s.cfg.pqDepth := by
  simp [queueFull]

theorem queueFull_rxq_eq_false {s : State} : queueFull .rxq s = false ↔ s.rxq.length ≠ s.cfg.rxqDepth := by
  simp [queueFull]

theorem queueFull_txq_eq_false {s : State} : queueFull .txq s = false ↔ s.txq.length ≠ s.cfg.txqDepth := by
  simp [queueFull]

end Sys2Proof.Machine

/-! ### Steady operations

Every operation but `TICK` and `RESET` leaves time, the configuration and `ARB.t_reset` alone, and appends to the log only
events of its own time. -/
namespace Sys2Proof.Machine

/-- The log of `t` is that of `s` with events appended that carry the time of `s` (R195). -/
def LogGrows (s t : State) : Prop :=
  ∃ new, t.out.log = s.out.log ++ new ∧ ∀ e ∈ new, e.time = s.now

/-- What every operation but `TICK` and `RESET` keeps (R4, R25, R83, R195). -/
structure Steady (s t : State) : Prop where
  now : t.now = s.now
  cfg : t.cfg = s.cfg
  tReset : t.arb.tReset = s.arb.tReset
  log : LogGrows s t

theorem LogGrows.of_same {s t : State} (h : t.out.log = s.out.log) : LogGrows s t := ⟨[], by simp [h], by simp⟩

theorem LogGrows.trans {a b c : State} (h : LogGrows a b) (hn : b.now = a.now) (k : LogGrows b c) : LogGrows a c := by
  obtain ⟨new, hlog, htime⟩ := h
  obtain ⟨new', hlog', htime'⟩ := k
  refine ⟨new ++ new', by rw [hlog', hlog, List.append_assoc], fun e he => ?_⟩
  rcases List.mem_append.mp he with he | he
  · exact htime e he
  · exact (htime' e he).trans hn

/-- An update of other fields is steady. -/
theorem Steady.of_same {s t : State} (now : t.now = s.now) (cfg : t.cfg = s.cfg) (tReset : t.arb.tReset = s.arb.tReset)
    (log : t.out.log = s.out.log) : Steady s t := ⟨now, cfg, tReset, .of_same log⟩

theorem Steady.refl (s : State) : Steady s s := .of_same rfl rfl rfl rfl

theorem Steady.trans {a b c : State} (h : Steady a b) (k : Steady b c) : Steady a c where
  now := k.now.trans h.now
  cfg := k.cfg.trans h.cfg
  tReset := k.tReset.trans h.tReset
  log := h.log.trans h.now k.log

/-- A steady operation run after an update of other fields. -/
theorem Steady.after_update {s t u : State} (h : Steady t u) (now : t.now = s.now) (cfg : t.cfg = s.cfg)
    (tReset : t.arb.tReset = s.arb.tReset) (log : t.out.log = s.out.log) : Steady s u :=
  (of_same now cfg tReset log).trans h

theorem Steady.ite {s t u : State} {c : Prop} [Decidable c] (ht : Steady s t) (hu : Steady s u) :
    Steady s (if c then t else u) := by
  split
  · exact ht
  · exact hu

/-! #### The log, the queues, the line -/

theorem raise_steady (ev : Event) (s : State) : Steady s (raise ev s) :=
  ⟨rfl, rfl, rfl, [⟨ev, s.now⟩], rfl, by simp⟩

theorem answer_steady (r : Result) (s : State) : Steady s (answer r s) := .of_same rfl rfl rfl rfl

theorem dropLog_steady (q : QueueId) (s : State) : Steady s (dropLog q s) := .ite (raise_steady _ s) (.refl s)

theorem enqPulse_steady (p : Pulse) (s : State) : Steady s (enqPulse p s) :=
  (dropLog_steady .pq s).trans (.of_same rfl rfl rfl rfl)

theorem enqReceived_steady (f : RawFrame) (s : State) : Steady s (enqReceived f s) :=
  (dropLog_steady .rxq s).trans (.of_same rfl rfl rfl rfl)

theorem enqCommand_steady (f : RawFrame) (s : State) : Steady s (enqCommand f s) :=
  (dropLog_steady .txq s).trans (.of_same rfl rfl rfl rfl)

theorem enqEntry_steady (e : QueueEntry) (s : State) : Steady s (enqEntry e s) := by
  cases e with
  | pulse p => exact enqPulse_steady p s
  | received f => exact enqReceived_steady f s
  | command f => exact enqCommand_steady f s

theorem dropHead_steady (q : QueueId) (s : State) : Steady s (dropHead q s) := by
  cases q <;> exact .of_same rfl rfl rfl rfl

theorem flushQueue_steady (q : QueueId) (s : State) : Steady s (flushQueue q s) := by
  cases q <;> exact .of_same rfl rfl rfl rfl

theorem relevel_steady (s : State) : Steady s (relevel s) :=
  have h := relevel_lineFrame s
  .of_same h.now h.cfg (by rw [h.arb]) (by rw [relevel_out])

theorem capture_steady (s : State) : Steady s (capture s) :=
  (enqPulse_steady ⟨s.cap.lastLevel, sat32 (s.now - s.cap.lastEdge)⟩ s).trans (.of_same rfl rfl rfl rfl)

theorem edgeOp_steady (s : State) : Steady s (edgeOp s) := .ite (capture_steady s) (.refl s)

theorem settleLine_steady (s : State) : Steady s (settleLine s) :=
  .ite (relevel_steady s) ((relevel_steady s).trans (edgeOp_steady _))

/-! #### The receive side -/

theorem beginFrame_steady (s : State) : Steady s (beginFrame s) := .of_same rfl rfl rfl rfl

theorem resetIdle_steady (s : State) : Steady s (resetIdle s) := .of_same rfl rfl rfl rfl

theorem setPhase_steady (ph : Phase) (s : State) : Steady s (setPhase ph s) := .of_same rfl rfl rfl rfl

theorem noiseOp_steady (c : PulseClass) (s : State) : Steady s (noiseOp c s) :=
  (raise_steady _ s).trans (resetIdle_steady _)

theorem pushBitOp_steady (v : Bool) (s : State) : Steady s (pushBitOp v s) :=
  .ite ((raise_steady _ s).trans (resetIdle_steady _)) (.of_same rfl rfl rfl rfl)

theorem frameSeen_steady (src : Source) (s : State) : Steady s (frameSeen src s) :=
  .of_same (frameSeen_now src s) (frameSeen_cfg src s) (frameSeen_rxFrame src s).tReset (by rw [frameSeen_out])

theorem finalizeOp_steady (bytes : Bytes) (src : Source) (s : State) : Steady s (finalizeOp bytes src s) :=
  ((frameSeen_steady src s).trans (enqReceived_steady _ _)).trans (raise_steady _ _)

theorem validateOp_steady (s : State) : Steady s (validateOp s) := by
  rcases validateOp_cases s with ⟨bytes, src, -, h⟩ | ⟨-, h⟩ <;> rw [h]
  · exact finalizeOp_steady bytes src s
  · exact raise_steady _ s

theorem afterFrame_steady (cause : EndCause) (s : State) : Steady s (afterFrame cause s) := by
  cases cause with
  | timeout => exact resetIdle_steady s
  | restart => exact beginFrame_steady s

theorem judgeFrame_steady (s : State) : Steady s (judgeFrame s) :=
  .ite (.after_update (validateOp_steady _) rfl rfl rfl rfl) (raise_steady _ s)

theorem completeOp_steady (cause : EndCause) (s : State) : Steady s (completeOp cause s) :=
  (judgeFrame_steady s).trans (afterFrame_steady cause _)

/-- The decoder operation of every pulse class is steady (R98 to R103, R110). -/
theorem decodeClass_steady (c : PulseClass) (s : State) : Steady s (decodeClass c s) := by
  have hphase (ph : Phase) := setPhase_steady ph s
  have hnoise := noiseOp_steady c s
  have hpush (v : Bool) : Steady s (setPhase .phNone (pushBitOp v s)) :=
    (pushBitOp_steady v s).trans (setPhase_steady _ _)
  cases c with
  | startLo => exact .ite (hphase _) (.ite (hphase _) hnoise)
  | startHi => exact .ite (beginFrame_steady s) (.ite (hphase _) (.ite (completeOp_steady _ s) hnoise))
  | bitLo => exact .ite (hphase _) (.ite (hphase _) hnoise)
  | bitShort => exact .ite (hphase _) (.ite (hpush _) hnoise)
  | bitLong => exact .ite (hphase _) (.ite (hpush _) hnoise)
  | idle => exact .ite (hphase _) (completeOp_steady _ s)
  | invalid => exact .ite (hphase _) hnoise

theorem receivePulse_steady (p : Pulse) (s : State) : Steady s (receivePulse p s) :=
  .ite (.refl s) (decodeClass_steady _ s)

theorem rxPulseOp_steady (s : State) : Steady s (rxPulseOp s) := by
  unfold rxPulseOp
  split
  · exact .refl s
  · exact .after_update (receivePulse_steady _ _) rfl rfl rfl rfl

theorem feedPulse_steady (s : State) (p : Pulse) : Steady s (feedPulse s p) :=
  (enqPulse_steady p s).trans (rxPulseOp_steady _)

theorem feedTrain_steady (ps : List Pulse) (s : State) : Steady s (feedTrain ps s) := by
  induction ps generalizing s with
  | nil => exact .refl s
  | cons p ps ih => exact (feedPulse_steady s p).trans (ih (feedPulse s p))

/-! #### The sequencer -/

theorem txBeginOp_steady (c : RawFrame) (s : State) : Steady s (txBeginOp c s) :=
  have hlog : Steady s (raise (.txStart c) (takeLine c s)) := .after_update (raise_steady _ _) rfl rfl rfl rfl
  hlog.trans (settleLine_steady _)

theorem txSegOp_steady (s : State) : Steady s (txSegOp s) :=
  .after_update (settleLine_steady _) rfl rfl rfl rfl

theorem txEndOp_steady (s : State) : Steady s (txEndOp s) := by
  rw [txEndOp_eq]
  exact ⟨rfl, rfl, rfl, _, rfl, by simp⟩

theorem schedPass_steady (c : RawFrame) (s : State) : Steady s (schedPass c s) :=
  .ite ((dropHead_steady .txq s).trans (raise_steady _ _))
    (.ite (.refl s) (.ite (raise_steady _ s) ((dropHead_steady .txq s).trans (txBeginOp_steady c _))))

/-! #### The rows -/

/-- An outcome whose next state, if it has one, is steady. -/
def SteadyOutcome (s : State) : Host.Outcome State Fault Refusal → Prop
  | .next t => Steady s t
  | .fault _ => True
  | .refused _ => True

theorem waits_steady (s : State) : SteadyOutcome s (waits s) := answer_steady _ s

theorem SteadyOutcome.ite {s : State} {c : Prop} [Decidable c] {r q : Host.Outcome State Fault Refusal}
    (hr : SteadyOutcome s r) (hq : SteadyOutcome s q) : SteadyOutcome s (if c then r else q) := by
  split
  · exact hr
  · exact hq

/-- A row that waits where it is not enabled. -/
theorem SteadyOutcome.enabled {s t : State} {c : Prop} [Decidable c] (h : Steady s t) :
    SteadyOutcome s (if c then .next t else waits s) := .ite h (waits_steady s)

/-- A row that is refused for some operands. -/
theorem SteadyOutcome.accepted {s t : State} {c : Prop} [Decidable c] {why : Refusal} (h : Steady s t) :
    SteadyOutcome s (if c then .next t else .refused why) := .ite h trivial

theorem runDecoder_steady (c : PulseClass) (s : State) : SteadyOutcome s (runDecoder (decodeClass c) s) :=
  .enabled (decodeClass_steady c s)

theorem runTrain_steady (ps : List Pulse) (s : State) : SteadyOutcome s (runTrain ps s) :=
  .enabled (feedTrain_steady ps s)

theorem execTxSched_steady (s : State) : SteadyOutcome s (execTxSched s) := by
  refine .ite ?_ (waits_steady s)
  split
  · exact waits_steady s
  · exact schedPass_steady _ s

theorem answer_dropHead_steady (r : Result) (q : QueueId) (s : State) : Steady s (answer r (dropHead q s)) :=
  (dropHead_steady q s).trans (answer_steady r _)

theorem execQDeq_steady (q : QueueId) (cancel : Bool) (s : State) : SteadyOutcome s (execQDeq q cancel s) := by
  unfold execQDeq
  split
  · exact answer_dropHead_steady _ q s
  · exact .enabled (answer_steady _ s)

theorem execQTryDeq_steady (q : QueueId) (s : State) : SteadyOutcome s (execQTryDeq q s) := by
  unfold execQTryDeq
  split
  · exact answer_dropHead_steady _ q s
  · exact answer_steady _ s

theorem execEConfig_steady (s : State) : SteadyOutcome s (execEConfig s) :=
  .enabled (.after_update (raise_steady _ _) rfl rfl rfl rfl)

/-- Every row but `TICK` and `RESET` is steady. -/
theorem exec_steady (i : Instr) (s : State) (ht : ¬ ∃ dt, i = .tick dt) (hr : ¬ ∃ c, i = .reset c) :
    SteadyOutcome s (exec i s) := by
  cases i with
  | decIdle _ => exact runDecoder_steady .idle s
  | decBitLo _ => exact runDecoder_steady .bitLo s
  | decStartLo _ => exact runDecoder_steady .startLo s
  | decBitShort _ => exact runDecoder_steady .bitShort s
  | decBitLong _ => exact runDecoder_steady .bitLong s
  | decStartHi _ => exact runDecoder_steady .startHi s
  | decInvalid _ => exact runDecoder_steady .invalid s
  | start => exact runTrain_steady _ s
  | short => exact runTrain_steady _ s
  | long => exact runTrain_steady _ s
  | spacing => exact runTrain_steady _ s
  | f12 _ => exact runTrain_steady _ s
  | f9 _ => exact runTrain_steady _ s
  | envLine _ => exact .ite (waits_steady s) (Steady.after_update (settleLine_steady _) rfl rfl rfl rfl)
  | tick dt => exact absurd ⟨dt, rfl⟩ ht
  | edge => exact .enabled (capture_steady s)
  | qEnq e => exact .ite (.enabled (enqEntry_steady e s)) trivial
  | qDeq q cancel => exact execQDeq_steady q cancel s
  | qTryDeq q => exact execQTryDeq_steady q s
  | qPeek _ => exact answer_steady _ s
  | qFlush q => exact flushQueue_steady q s
  | rxPulse => exact .ite (waits_steady s) (rxPulseOp_steady s)
  | rxTimeout => exact .enabled (completeOp_steady _ s)
  | pushBit v => exact .enabled (pushBitOp_steady v s)
  | complete cause => exact .enabled (completeOp_steady cause s)
  | noise c => exact .enabled (noiseOp_steady c s)
  | lenClass _ => exact answer_steady _ s
  | csum _ => exact answer_steady _ s
  | validate => exact .enabled (validateOp_steady s)
  | finalize bytes src => exact .enabled (finalizeOp_steady bytes src s)
  | arbFrameSeen src => exact .enabled (frameSeen_steady src s)
  | txSched => exact execTxSched_steady s
  | txBegin c => exact .enabled (txBeginOp_steady c s)
  | txSeg => exact .enabled (txSegOp_steady s)
  | txEnd => exact .enabled (txEndOp_steady s)
  | hostCmd _ => exact .accepted (enqCommand_steady _ s)
  | hostRxPop => exact answer_dropHead_steady _ .rxq s
  | hostRxWait _ => exact .ite (waits_steady s) (answer_dropHead_steady _ .rxq s)
  | hostSetPassive _ => exact Steady.of_same rfl rfl rfl rfl
  | hostStatus => exact answer_steady _ s
  | hostCsum _ => exact .accepted (answer_steady _ s)
  | reset c => exact absurd ⟨c, rfl⟩ hr
  | eNoise c => exact .enabled (noiseOp_steady c s)
  | eChecksum cause => exact .enabled ((raise_steady _ s).trans (afterFrame_steady cause _))
  | eLength cause => exact .enabled ((raise_steady _ s).trans (afterFrame_steady cause _))
  | eOverflow => exact .enabled ((raise_steady _ s).trans (resetIdle_steady _))
  | eStarved => exact .enabled (raise_steady _ s)
  | eConfig => exact execEConfig_steady s
  | eDomain => exact Steady.refl s
  | eQdrop q => exact .enabled (raise_steady _ s)
  | frameOk src len => exact raise_steady _ s
  | txStart f => exact raise_steady _ s
  | txDone f => exact raise_steady _ s
  | cmdDropped f => exact raise_steady _ s

/-- `TICK` waits, or moves time and nothing else (R83). -/
theorem exec_tick_next {dt : Nat} {s t : State} (h : exec (.tick dt) s = .next t) :
    t = answer .notEnabled s ∨ t = { s with now := s.now + dt } := by
  change execTick dt s = .next t at h
  unfold execTick waits at h
  split at h
  · split at h
    · cases h
      exact .inr rfl
    · cases h
  · cases h
    exact .inl rfl

/-- `RESET` runs with the record given, or with the one in force (R230; log 17). -/
theorem exec_reset_next {c : Option Cfg} {s t : State} (h : exec (.reset c) s = .next t) :
    t = resetOp (c.getD s.cfg) s := by
  change execReset c s = .next t at h
  unfold execReset at h
  split at h
  · cases h
    rfl
  · cases h

/-- `RESET` logs at most that no pin is bound (R231); the log survives it (log 14). -/
theorem resetOp_logGrows (c : Cfg) (s : State) : LogGrows s (resetOp c s) := by
  rw [resetOp_eq]
  refine ⟨_, rfl, fun e he => ?_⟩
  cases hp : c.pinConfigured <;> simp_all

/-- Settles O11: every row but `TICK` and `RESET` is steady, and those two are taken one by one. -/
theorem timeConfigurationAndLog : Obligations.TimeConfigurationAndLog := by
  unfold Obligations.TimeConfigurationAndLog
  intro i s t h
  by_cases ht : ∃ dt, i = .tick dt
  · obtain ⟨dt, rfl⟩ := ht
    rcases exec_tick_next h with rfl | rfl
    · exact ⟨.inl rfl, .inl rfl, .inl rfl, LogGrows.of_same rfl⟩
    · exact ⟨.inr ⟨dt, rfl, rfl⟩, .inl rfl, .inl rfl, LogGrows.of_same rfl⟩
  by_cases hr : ∃ c, i = .reset c
  · obtain ⟨c, rfl⟩ := hr
    obtain rfl := exec_reset_next h
    have hlog := resetOp_logGrows (c.getD s.cfg) s
    rw [resetOp_eq] at hlog ⊢
    refine ⟨.inl rfl, ?_, .inr ⟨c, rfl, rfl⟩, hlog⟩
    cases c with
    | none => exact .inl rfl
    | some c => exact .inr ⟨c, rfl, rfl⟩
  have hsteady := exec_steady i s ht hr
  rw [h] at hsteady
  exact ⟨.inl hsteady.now, .inl hsteady.cfg, .inl hsteady.tReset, hsteady.log⟩

end Sys2Proof.Machine

/-! ### What a step adds to the instruction it runs -/
namespace Sys2Proof.Machine

theorem step_of_script_nil {s : State} (h : s.script = []) : step s = .next s := by simp [step, h]

/-- A script whose bytes decode is not empty. -/
theorem decode_nil_ne_ok (c : Cfg) (r : Instr × Bytes) : decode c [] ≠ .ok r := by simp [decode]

theorem step_of_decode_ok {s : State} {i : Instr} {rest : Bytes} (h : decode s.cfg s.script = .ok (i, rest)) :
    step s = settleStep s.line.draws (exec i { s with script := rest }) := by
  have hne : s.script ≠ [] := fun hnil => decode_nil_ne_ok s.cfg (i, rest) (hnil ▸ h)
  simp [step, fetch, h, hne]

theorem step_of_decode_error {s : State} {e : DecodeError} (hne : s.script ≠ [])
    (h : decode s.cfg s.script = .error e) : step s = .refused (.undecodable e) := by
  simp [step, fetch, h, hne]

/-- On a line nobody contends a step adds nothing (log 4). -/
theorem settleStep_of_quiet {n : Nat} {t : State} (h : contention t = false) : settleStep n (.next t) = .next t := by
  rw [settleStep, contendLine_of_quiet h]

/-- Settles O3, by the three answers the decoder can give for the script. -/
theorem stepRunsTheDecodedInstruction : Obligations.StepRunsTheDecodedInstruction := by
  unfold Obligations.StepRunsTheDecodedInstruction
  refine fun s => ⟨step_of_script_nil, fun i rest hd _ => ⟨step_of_decode_ok hd, fun t ht hc => ?_⟩,
    fun e => step_of_decode_error⟩
  rw [step_of_decode_ok hd, ht, settleStep_of_quiet hc]

end Sys2Proof.Machine

/-! ### Rows that are not enabled

One lemma per row that can wait: the row waits where its flag of Machine/Flags.lean is false. -/
namespace Sys2Proof.Machine
open Sys2Proof.Stated

/-- A row that waits where it is not enabled. -/
theorem waited_of_disabled {b : Bool} {r : Host.Outcome State Fault Refusal} {s : State} (h : b = false) :
    (if b then r else waits s) = waited s := by
  rw [h]
  rfl

/-- A row written with its disabling condition first. -/
theorem waited_of_disabling {c : Prop} [Decidable c] {r : Host.Outcome State Fault Refusal} {s : State} (h : c) :
    (if c then waits s else r) = waited s := if_pos h

/-! #### ENV, CAP and the queues -/

theorem exec_envLine_same (s : State) : exec (.envLine s.line.ext) s = waited s := waited_of_disabling rfl

theorem exec_tick_waits {dt : Nat} {s : State} (h : tickEnabled dt s = false) : exec (.tick dt) s = waited s :=
  waited_of_disabled h

theorem exec_edge_waits {s : State} (h : edgeEnabled s = false) : exec .edge s = waited s := waited_of_disabled h

/-- A value that is not of the queue's type is refused (log 22). -/
theorem exec_qEnq_refused {e : QueueEntry} {s : State} (h : entryOk e = false) :
    exec (.qEnq e) s = .refused .notOfQueueType := by
  change execQEnq e s = _
  simp [execQEnq, h]

theorem exec_qEnq_waits {e : QueueEntry} {s : State} (hok : entryOk e = true) (h : enqEnabled e s = false) :
    exec (.qEnq e) s = waited s := by
  change execQEnq e s = _
  rw [execQEnq, if_pos hok]
  exact waited_of_disabled h

/-- `deq` of an empty queue blocks unless it is cancelled (R45, R49). -/
theorem exec_qDeq_waits {q : QueueId} {cancel : Bool} {s : State} (hq : peekQueue q s = none)
    (hc : cancelled q cancel = false) : exec (.qDeq q cancel) s = waited s := by
  change execQDeq q cancel s = _
  rw [execQDeq, hq]
  exact waited_of_disabled hc

theorem exec_hostRxWait_waits {s : State} (h : s.rxq = []) : exec (.hostRxWait false) s = waited s :=
  waited_of_disabling (by simp [h, cancelled])

/-! #### The receive side -/

theorem exec_rxPulse_waits {s : State} (h : s.pq = []) : exec .rxPulse s = waited s :=
  waited_of_disabling (by simp [h])

theorem exec_rxTimeout_waits {s : State} (h : timeoutEnabled s = false) : exec .rxTimeout s = waited s :=
  waited_of_disabled h

/-- The pulse rows are run while Receiving with a pin bound only (R52 (e), R85, R96). -/
theorem exec_pulseRows_wait {s : State} (h : s.arb.mode = .transmitting ∨ s.cfg.pinConfigured = false) (p : Pulse) :
    exec (.decStartLo p) s = waited s ∧ exec (.decStartHi p) s = waited s ∧ exec (.decBitLo p) s = waited s ∧
    exec (.decBitShort p) s = waited s ∧ exec (.decBitLong p) s = waited s ∧ exec (.decIdle p) s = waited s ∧
    exec (.decInvalid p) s = waited s := by
  have hwait (op : State → State) : runDecoder op s = waited s :=
    waited_of_disabled (by rwa [Bool.and_eq_false_iff, isReceiving_eq_false])
  exact ⟨hwait _, hwait _, hwait _, hwait _, hwait _, hwait _, hwait _⟩

/-- The decoder's helper rows and `E_NOISE` are run for a frame in flight only (R104, R106, R107, R197; log 11). -/
theorem exec_inFlightRows_wait {s : State} (h : inFlight s = false) :
    (∀ v, exec (.pushBit v) s = waited s) ∧ (∀ cause, exec (.complete cause) s = waited s) ∧
    ∀ c, exec (.noise c) s = waited s ∧ exec (.eNoise c) s = waited s :=
  ⟨fun _ => waited_of_disabled h, fun _ => waited_of_disabled h,
    fun _ => ⟨waited_of_disabled h, waited_of_disabled h⟩⟩

theorem exec_validate_waits {s : State} (h : s.dec.state ≠ .complete ∨ wholeFrame s ≠ true) :
    exec .validate s = waited s := if_neg (not_and_or.mpr h)

theorem exec_finalize_waits {bytes : Bytes} {src : Source} {s : State}
    (h : receivedOk ⟨bytes, src, s.now⟩ = false ∨ s.cfg.pinConfigured = false) :
    exec (.finalize bytes src) s = waited s := waited_of_disabled (Bool.and_eq_false_iff.mpr h)

theorem exec_arbFrameSeen_waits {s : State} (h : s.cfg.pinConfigured = false) (src : Source) :
    exec (.arbFrameSeen src) s = waited s := waited_of_disabled h

/-- With no pin bound no pulse train is fed to the block (R85; log 25). -/
theorem runTrain_waits {s : State} (h : s.cfg.pinConfigured = false) (ps : List Pulse) : runTrain ps s = waited s :=
  waited_of_disabled h

/-! #### The sequencer -/

theorem exec_txSched_of_transmitting {s : State} (h : s.arb.mode = .transmitting) : exec .txSched s = waited s :=
  waited_of_disabled (isReceiving_eq_false.mpr h)

theorem exec_txSched_of_empty {s : State} (h : s.txq = []) : exec .txSched s = waited s := by
  change execTxSched s = _
  rw [execTxSched, h]
  exact ite_self _

theorem exec_txBegin_waits {c : RawFrame} {s : State}
    (h : s.arb.mode = .transmitting ∨ mayTransmit s = false ∨ commandOk c = false) :
    exec (.txBegin c) s = waited s :=
  waited_of_disabled (by rwa [Bool.and_eq_false_iff, Bool.and_eq_false_iff, isReceiving_eq_false, or_assoc])

theorem exec_txSeg_waits {s : State} (h : atDeadline s = false ∨ atLastSegment s = true) :
    exec .txSeg s = waited s :=
  waited_of_disabled (by rwa [Bool.and_eq_false_iff, Bool.not_eq_false'])

theorem exec_txEnd_waits {s : State} (h : atDeadline s = false ∨ atLastSegment s = false) :
    exec .txEnd s = waited s := waited_of_disabled (Bool.and_eq_false_iff.mpr h)

/-! #### The error rows -/

theorem exec_eChecksum_waits {cause : EndCause} {s : State}
    (h : inFlight s = false ∨ wholeFrame s ≠ true ∨ verdict (candidate s) ≠ none) :
    exec (.eChecksum cause) s = waited s := by
  have hcause : (inFlight s && wholeFrame s && (verdict (candidate s)).isNone) = false := by
    rwa [Bool.and_eq_false_iff, Bool.and_eq_false_iff, ← Bool.not_eq_true (wholeFrame s),
      ← Bool.not_eq_true (Option.isNone _), Option.isNone_iff_eq_none, or_assoc]
  exact waited_of_disabled hcause

theorem exec_eLength_waits {cause : EndCause} {s : State} (h : inFlight s = false ∨ wholeFrame s = true) :
    exec (.eLength cause) s = waited s :=
  waited_of_disabled (by rwa [Bool.and_eq_false_iff, Bool.not_eq_false'])

theorem exec_eOverflow_waits {s : State} (h : inFlight s = false ∨ s.dec.nbytes ≠ 12) :
    exec .eOverflow s = waited s :=
  waited_of_disabled (by rwa [Bool.and_eq_false_iff, beq_eq_false_iff_ne])

theorem exec_eStarved_waits {s : State} (h : starves s = false) : exec .eStarved s = waited s := waited_of_disabled h

theorem exec_eQdrop_waits {q : QueueId} {s : State} (h : queueFull q s = false) : exec (.eQdrop q) s = waited s :=
  waited_of_disabled h

theorem exec_eConfig_waits {s : State} (h : s.cfg.pinConfigured = true ∨ s.arb.cfgErr = true) :
    exec .eConfig s = waited s :=
  waited_of_disabled (by rwa [Bool.and_eq_false_iff, Bool.not_eq_false', Bool.not_eq_false'])

/-- With no pin bound every row of the receive side waits (R85; log 25). -/
theorem exec_receiveRows_wait_without_pin {s : State} (h : s.cfg.pinConfigured = false) :
    (∀ p, exec (.qEnq (.pulse p)) s = waited s ∧ exec (.decStartLo p) s = waited s ∧ exec (.decStartHi p) s = waited s ∧
      exec (.decBitLo p) s = waited s ∧ exec (.decBitShort p) s = waited s ∧ exec (.decBitLong p) s = waited s ∧
      exec (.decIdle p) s = waited s ∧ exec (.decInvalid p) s = waited s) ∧
    (∀ f, receivedOk f = true → exec (.qEnq (.received f)) s = waited s) ∧
    (∀ bytes src, exec (.finalize bytes src) s = waited s ∧ exec (.arbFrameSeen src) s = waited s ∧
      exec (.f9 bytes) s = waited s ∧ exec (.f12 bytes) s = waited s) ∧
    exec .start s = waited s ∧ exec .short s = waited s ∧ exec .long s = waited s ∧ exec .spacing s = waited s :=
  have htrain := runTrain_waits h
  ⟨fun p => ⟨exec_qEnq_waits rfl h, exec_pulseRows_wait (.inr h) p⟩,
    fun _ hok => exec_qEnq_waits hok h,
    fun _ src => ⟨exec_finalize_waits (.inr h), exec_arbFrameSeen_waits h src, htrain _, htrain _⟩,
    htrain _, htrain _, htrain _, htrain _⟩

/-- Settles O58, clause by clause: each condition makes its row's flag false. -/
theorem notEnabledOperationsWait : Obligations.NotEnabledOperationsWait := by
  unfold Obligations.NotEnabledOperationsWait
  intro s
  refine ⟨exec_envLine_same s, exec_tick_waits (tickEnabled_zero s),
    fun dt hm hd => exec_tick_waits (tickEnabled_past_deadline hm hd),
    fun h => exec_edge_waits (edgeEnabled_eq_false.mpr h),
    fun f h => exec_qEnq_refused h, fun f h => exec_qEnq_refused h,
    fun cancel h => ⟨exec_qDeq_waits (by simp [peekQueue, h]) rfl, exec_rxPulse_waits h⟩,
    fun h => ⟨exec_qDeq_waits (by simp [peekQueue, h]) rfl, exec_hostRxWait_waits h⟩,
    fun cancel h => ⟨exec_qDeq_waits (by simp [peekQueue, h]) rfl, exec_txSched_of_empty h⟩,
    fun h => ⟨exec_txSched_of_transmitting h, exec_pulseRows_wait (.inl h)⟩,
    exec_rxTimeout_waits,
    fun h => exec_inFlightRows_wait (inFlight_eq_false.mpr h),
    fun h => exec_validate_waits (by rwa [ne_eq (wholeFrame s), wholeFrame_iff]),
    fun bytes src h => exec_finalize_waits (.inl h),
    exec_receiveRows_wait_without_pin,
    fun cause h => exec_eChecksum_waits
      (by rwa [inFlight_eq_false, ne_eq (wholeFrame s), wholeFrame_iff, verdict_ne_none, or_assoc]),
    fun cause h => exec_eLength_waits (by rwa [inFlight_eq_false, wholeFrame_iff, or_assoc]),
    fun h => exec_eOverflow_waits (by rwa [inFlight_eq_false, or_assoc]),
    fun h => exec_eStarved_waits (starves_eq_false.mpr h),
    fun h => exec_eQdrop_waits (queueFull_pq_eq_false.mpr h),
    fun h => exec_eQdrop_waits (queueFull_rxq_eq_false.mpr h),
    fun h => exec_eQdrop_waits (queueFull_txq_eq_false.mpr h),
    fun c h => exec_txBegin_waits (by rwa [mayTransmit_eq_false, or_assoc, or_assoc]),
    fun h => ⟨exec_txSeg_waits (.inl (atDeadline_eq_false.mpr h)),
      exec_txEnd_waits (.inl (atDeadline_eq_false.mpr h))⟩,
    fun hpos hrep => exec_txSeg_waits (.inr (atLastSegment_iff.mpr ⟨hpos, hrep⟩)),
    fun h => exec_txEnd_waits (.inr (atLastSegment_eq_false.mpr h)),
    exec_eConfig_waits⟩

end Sys2Proof.Machine

/-! ## Proofs: 10_state.md -/

/-! ### The line settles -/
namespace Sys2Proof.Machine
open Sys2Proof.Stated

/-- Recomputing the level writes `LINE` only (R31). -/
theorem relevel_eq (s : State) : relevel s = { s with line := (relevel s).line } := by
  rcases relevel_cases s with ⟨-, h⟩ | ⟨-, -, h⟩ | ⟨-, -, h⟩ <;> rw [h]

theorem edgeEnabled_relevel {s : State} :
    edgeEnabled (relevel s) = true ↔
      (relevel s).line.level ≠ s.cap.lastLevel ∧ s.cfg.pinConfigured = true := by
  simp [edgeEnabled, (relevel_lineFrame s).cfg, and_comm]

/-- The eviction event of a capture, as the statements write it (R44, R203). -/
theorem dropEvents_pq (s : State) :
    dropEvents .pq s = evicted .pq (decide (s.pq.length = s.cfg.pqDepth)) s.now := by
  simp [dropEvents, evicted, queueFull]

/-- A line that settles on another level than the one captured, with a pin bound, is captured (R80, R81). -/
theorem settleLine_of_edge {s : State} (hlevel : (relevel s).line.level ≠ s.line.level)
    (hcap : (relevel s).line.level ≠ s.cap.lastLevel) (hp : s.cfg.pinConfigured = true) :
    settleLine s = { s with
      line := (relevel s).line
      cap := ⟨(relevel s).line.level, s.now⟩
      pq := enqList s.cfg.pqDepth s.pq ⟨s.cap.lastLevel, sat32 (s.now - s.cap.lastEdge)⟩
      out := { s.out with log := s.out.log ++ dropEvents .pq s, wakes := s.out.wakes + 1 } } := by
  rw [settleLine, if_neg hlevel, edgeOp, if_pos (edgeEnabled_relevel.mpr ⟨hcap, hp⟩), capture_eq, relevel_eq s]
  rfl

/-- In every other case the line settles and nothing is captured (R80, R81, R85). -/
theorem settleLine_of_no_edge {s : State}
    (h : ¬ ((relevel s).line.level ≠ s.line.level ∧ (relevel s).line.level ≠ s.cap.lastLevel ∧
      s.cfg.pinConfigured = true)) : settleLine s = { s with line := (relevel s).line } := by
  rw [← relevel_eq, settleLine]
  split
  · rfl
  · next hlevel => rw [edgeOp, if_neg fun he => h ⟨hlevel, edgeEnabled_relevel.mp he⟩]

/-- Settles O7: the line is the one `relevel` gives, and `EDGE` runs or not by its enabling condition. -/
theorem lineSettles : Obligations.LineSettles := by
  unfold Obligations.LineSettles
  refine fun s => ⟨(relevel s).line, fun hd => ?_, fun hd he => ?_, fun hd he => ?_, ?_⟩
  · simp [relevel, hd]
  · simp [relevel, hd, he]
  · simp [relevel, hd, he]
  · split
    · next h =>
      obtain ⟨hlevel, hcap, hp⟩ := h
      rw [settleLine_of_edge hlevel hcap hp, dropEvents_pq]
    · next h => exact settleLine_of_no_edge h

end Sys2Proof.Machine

/-! ### The host's registers and reset -/
namespace Sys2Proof.Machine

/-- Settles O53: both rows write what the statement writes out. -/
theorem hostPassiveAndStatus : Obligations.HostPassiveAndStatus := by
  unfold Obligations.HostPassiveAndStatus
  exact fun s => ⟨fun _ => rfl, rfl⟩

theorem exec_reset_refused {c : Cfg} {s : State} (h : cfgWf c = false) :
    exec (.reset (some c)) s = .refused .illFormedConfig := if_neg (Bool.not_eq_true _ ▸ h)

theorem exec_reset_of_wf {c : Cfg} {s : State} (h : cfgWf c = true) :
    exec (.reset (some c)) s = .next (resetOp c s) := if_pos h

/-- Settles O54: `RESET` of a well-formed record is `resetOp`, whose registers `resetOp_eq` shows. -/
theorem reset : Obligations.Reset := by
  unfold Obligations.Reset
  refine fun c s => ⟨rfl, exec_reset_refused, fun hc => ⟨resetOp c s, exec_reset_of_wf hc, ?_⟩⟩
  rw [resetOp_eq]
  and_intros <;> rfl

theorem default_cfgWf : cfgWf Config.default = true := by decide

/-- Settles O55: the reset state is `State.released` with the default record. -/
theorem resetState : Obligations.ResetState := by
  unfold Obligations.ResetState
  refine ⟨default_cfgWf, ?_⟩
  and_intros <;> rfl

/-- The registers of R36 satisfy the invariant, for any well-formed record and any time in range. -/
theorem released_inv {c : Cfg} {now : Nat} (hc : cfgWf c = true) (hnow : now ≤ timeMax) (ext : Level) (draws : Nat)
    (o : Outputs) (script : Bytes) : BlockInv (State.released c now ext draws o script) where
  cfg := hc
  cfgErr := rfl
  disabled := fun _ => ⟨rfl, rfl, rfl, rfl, rfl, rfl⟩
  dec := ⟨wf_empty, Nat.zero_le _, Nat.zero_le _, Nat.one_pos, by simp, fun _ => ⟨rfl, rfl, rfl, by simp⟩⟩
  line := ⟨fun _ => rfl, fun h => by simp at h, fun _ => rfl, fun h => by simp at h, fun _ => rfl⟩
  seq := fun h => by simp at h
  queue := ⟨Nat.zero_le _, Nat.zero_le _, Nat.zero_le _, rfl, rfl⟩
  time := ⟨hnow, Nat.le_refl _, Nat.le_refl _, trivial, trivial, trivial⟩

/-- Settles O60: the default record is well-formed and time starts at 0. -/
theorem resetHasInv : Obligations.ResetHasInv := by
  unfold Obligations.ResetHasInv
  exact released_inv default_cfgWf (Nat.zero_le _) high 0 _ []

end Sys2Proof.Machine

/-! ### The next state of a row -/
namespace Sys2Proof.Machine

/-- A property of the next state of an outcome, if it has one. -/
def NextSatisfies (P : State → Prop) : Host.Outcome State Fault Refusal → Prop
  | .next t => P t
  | .fault _ => True
  | .refused _ => True

theorem NextSatisfies.of_next {P : State → Prop} {r : Host.Outcome State Fault Refusal} {t : State}
    (h : NextSatisfies P r) (hr : r = .next t) : P t := by
  rw [hr] at h
  exact h

theorem NextSatisfies.ite {P : State → Prop} {c : Prop} [Decidable c] {r q : Host.Outcome State Fault Refusal}
    (hr : c → NextSatisfies P r) (hq : ¬ c → NextSatisfies P q) : NextSatisfies P (if c then r else q) := by
  split
  · exact hr ‹_›
  · exact hq ‹_›

/-- A row that waits where it is not enabled. -/
theorem NextSatisfies.enabled {P : State → Prop} {c : Prop} [Decidable c] {s t : State}
    (hw : P (answer .notEnabled s)) (h : c → P t) : NextSatisfies P (if c then .next t else waits s) :=
  .ite h fun _ => hw

/-- A row that is refused for some operands. -/
theorem NextSatisfies.accepted {P : State → Prop} {c : Prop} [Decidable c] {t : State} {why : Refusal}
    (h : c → P t) : NextSatisfies P (if c then .next t else .refused why) := .ite h fun _ => trivial

end Sys2Proof.Machine

/-! ### Which rows move the line and the mode

One inversion lemma over all rows, from which the laws of the draws and of `ARB.mode` follow. -/
namespace Sys2Proof.Machine

/-- The line and the mode are as they were. -/
structure LineKept (s t : State) : Prop where
  line : t.line = s.line
  mode : t.arb.mode = s.arb.mode

/-- What a row can do to the line and the mode. -/
inductive LineStep (s : State) : Instr → State → Prop
  /-- Nothing. -/
  | kept {i : Instr} {t : State} (h : LineKept s t) : LineStep s i t
  /-- `ENV_LINE` imposes a level, and the line settles (R82). -/
  | imposed (v : Level) : LineStep s (.envLine v) (settleLine { s with line := { s.line with ext := v } })
  /-- A transmission begins, in a scheduling pass or its tail (R143, R167). -/
  | begun {i : Instr} {c : RawFrame} {u : State} (row : i = .txSched ∨ i = .txBegin c)
      (may : mayTransmit s = true) (h : LineKept s u) : LineStep s i (txBeginOp c u)
  /-- `TX_SEG` (R169). -/
  | segment : LineStep s .txSeg (txSegOp s)
  /-- `TX_END` at the end of the last segment (R171). -/
  | ended (due : atDeadline s = true) (last : atLastSegment s = true) : LineStep s .txEnd (txEndOp s)
  /-- `RESET` (R230, R232). -/
  | reset (c : Option Cfg) : LineStep s (.reset c) (resetOp (c.getD s.cfg) s)

theorem LineKept.refl (s : State) : LineKept s s := ⟨rfl, rfl⟩

theorem LineKept.trans {a b c : State} (h : LineKept a b) (k : LineKept b c) : LineKept a c :=
  ⟨k.line.trans h.line, k.mode.trans h.mode⟩

theorem RxFrame.lineKept {s t : State} (h : RxFrame s t) : LineKept s t := ⟨h.line, h.mode⟩

theorem answer_keepsLine (r : Result) (s : State) : LineKept s (answer r s) := ⟨rfl, rfl⟩

theorem raise_keepsLine (ev : Event) (s : State) : LineKept s (raise ev s) := ⟨rfl, rfl⟩

theorem enqEntry_keepsLine (e : QueueEntry) (s : State) : LineKept s (enqEntry e s) := by
  cases e with
  | pulse p => rw [enqEntry, enqPulse_eq]; exact ⟨rfl, rfl⟩
  | received f => rw [enqEntry, enqReceived_eq]; exact ⟨rfl, rfl⟩
  | command f => rw [enqEntry, enqCommand_eq]; exact ⟨rfl, rfl⟩

theorem dropHead_keepsLine (q : QueueId) (s : State) : LineKept s (dropHead q s) := by cases q <;> exact ⟨rfl, rfl⟩

theorem flushQueue_keepsLine (q : QueueId) (s : State) : LineKept s (flushQueue q s) := by cases q <;> exact ⟨rfl, rfl⟩

theorem capture_keepsLine (s : State) : LineKept s (capture s) := capture_eq s ▸ ⟨rfl, rfl⟩

theorem rxPulseOp_keepsLine (s : State) : LineKept s (rxPulseOp s) :=
  ⟨(rxPulseOp_rxFrame s).line, (rxPulseOp_rxFrame s).mode⟩

theorem feedTrain_keepsLine (ps : List Pulse) (s : State) : LineKept s (feedTrain ps s) :=
  ⟨(feedTrain_rxFrame ps s).line, (feedTrain_rxFrame ps s).mode⟩

/-- A row that runs where it is enabled and keeps the line there. -/
theorem LineKept.enabled {i : Instr} {s t : State} {c : Prop} [Decidable c] (h : LineKept s t) :
    NextSatisfies (LineStep s i) (if c then .next t else waits s) :=
  .enabled (.kept (answer_keepsLine _ s)) fun _ => .kept h

/-- A row that always runs and keeps the line. -/
theorem LineKept.always {i : Instr} {s t : State} (h : LineKept s t) :
    NextSatisfies (LineStep s i) (.next t) := LineStep.kept h

theorem runDecoder_lineStep (i : Instr) (c : PulseClass) (s : State) :
    NextSatisfies (LineStep s i) (runDecoder (decodeClass c) s) := (decodeClass_rxFrame c s).lineKept.enabled

theorem runTrain_lineStep (i : Instr) (ps : List Pulse) (s : State) :
    NextSatisfies (LineStep s i) (runTrain ps s) := (feedTrain_keepsLine ps s).enabled

theorem answer_dropHead_keepsLine (r : Result) (q : QueueId) (s : State) : LineKept s (answer r (dropHead q s)) :=
  (dropHead_keepsLine q s).trans (answer_keepsLine r _)

theorem execQDeq_lineStep (i : Instr) (q : QueueId) (cancel : Bool) (s : State) :
    NextSatisfies (LineStep s i) (execQDeq q cancel s) := by
  unfold execQDeq
  split
  · exact (answer_dropHead_keepsLine _ q s).always
  · exact (answer_keepsLine _ s).enabled

theorem execQTryDeq_lineStep (i : Instr) (q : QueueId) (s : State) :
    NextSatisfies (LineStep s i) (execQTryDeq q s) := by
  unfold execQTryDeq
  split
  · exact (answer_dropHead_keepsLine _ q s).always
  · exact (answer_keepsLine _ s).always

/-- A scheduling pass starts a transmission only where it may (R136, R143 to R145). -/
theorem schedPass_lineStep (c : RawFrame) (s : State) : LineStep s .txSched (schedPass c s) := by
  have hdrop := dropHead_keepsLine .txq s
  unfold schedPass
  split
  · exact .kept (hdrop.trans (raise_keepsLine _ _))
  split
  · exact .kept (.refl s)
  split
  · exact .kept (raise_keepsLine _ s)
  · next hpin hactive hallowed =>
    have may : mayTransmit s = true := by
      rw [← Bool.not_eq_false, mayTransmit_eq_false]
      simp_all
    exact .begun (.inl rfl) may hdrop

theorem execTxSched_lineStep (s : State) : NextSatisfies (LineStep s .txSched) (execTxSched s) := by
  refine .ite (fun _ => ?_) fun _ => (answer_keepsLine _ s).always
  split
  · exact (answer_keepsLine _ s).always
  · exact schedPass_lineStep _ s

theorem execTxBegin_lineStep (c : RawFrame) (s : State) :
    NextSatisfies (LineStep s (.txBegin c)) (execTxBegin c s) := by
  refine .enabled (.kept (answer_keepsLine _ s)) fun h => ?_
  simp only [Bool.and_eq_true] at h
  obtain ⟨⟨-, may⟩, -⟩ := h
  exact .begun (.inr rfl) may (.refl s)

theorem execTxEnd_lineStep (s : State) : NextSatisfies (LineStep s .txEnd) (execTxEnd s) := by
  refine .enabled (.kept (answer_keepsLine _ s)) fun h => ?_
  obtain ⟨due, last⟩ := Bool.and_eq_true_iff.mp h
  exact .ended due last

theorem execReset_lineStep (c : Option Cfg) (s : State) :
    NextSatisfies (LineStep s (.reset c)) (execReset c s) := .accepted fun _ => .reset c

/-- Every row moves the line and the mode in one of the ways of `LineStep`. -/
theorem exec_lineStep (i : Instr) (s : State) : NextSatisfies (LineStep s i) (exec i s) := by
  have hnoise (c : PulseClass) : LineKept s (noiseOp c s) := (noiseOp_rxFrame c s).lineKept
  have hcomplete (cause : EndCause) : LineKept s (completeOp cause s) := (completeOp_rxFrame cause s).lineKept
  have hraise (ev : Event) : LineKept s (raise ev s) := raise_keepsLine ev s
  have hafter (cause : EndCause) (ev : Event) : LineKept s (afterFrame cause (raise ev s)) :=
    ((raise_rxFrame ev s).trans (afterFrame_rxFrame cause _)).lineKept
  have hanswer (r : Result) : LineKept s (answer r s) := answer_keepsLine r s
  cases i with
  | decIdle _ => exact runDecoder_lineStep _ .idle s
  | decBitLo _ => exact runDecoder_lineStep _ .bitLo s
  | decStartLo _ => exact runDecoder_lineStep _ .startLo s
  | decBitShort _ => exact runDecoder_lineStep _ .bitShort s
  | decBitLong _ => exact runDecoder_lineStep _ .bitLong s
  | decStartHi _ => exact runDecoder_lineStep _ .startHi s
  | decInvalid _ => exact runDecoder_lineStep _ .invalid s
  | start => exact runTrain_lineStep _ _ s
  | short => exact runTrain_lineStep _ _ s
  | long => exact runTrain_lineStep _ _ s
  | spacing => exact runTrain_lineStep _ _ s
  | f12 _ => exact runTrain_lineStep _ _ s
  | f9 _ => exact runTrain_lineStep _ _ s
  | envLine v => exact .ite (fun _ => (hanswer _).always) fun _ => LineStep.imposed v
  | tick _ => exact .ite (fun _ => .accepted fun _ => .kept ⟨rfl, rfl⟩) fun _ => (hanswer _).always
  | edge => exact (capture_keepsLine s).enabled
  | qEnq e => exact .ite (fun _ => (enqEntry_keepsLine e s).enabled) fun _ => trivial
  | qDeq q cancel => exact execQDeq_lineStep _ q cancel s
  | qTryDeq q => exact execQTryDeq_lineStep _ q s
  | qPeek _ => exact (hanswer _).always
  | qFlush q => exact (flushQueue_keepsLine q s).always
  | rxPulse => exact .ite (fun _ => (hanswer _).always) fun _ => (rxPulseOp_keepsLine s).always
  | rxTimeout => exact (hcomplete _).enabled
  | pushBit v => exact (pushBitOp_rxFrame v s).lineKept.enabled
  | complete cause => exact (hcomplete cause).enabled
  | noise c => exact (hnoise c).enabled
  | lenClass _ => exact (hanswer _).always
  | csum _ => exact (hanswer _).always
  | validate => exact (validateOp_rxFrame s).lineKept.enabled
  | finalize bytes src => exact (finalizeOp_rxFrame bytes src s).lineKept.enabled
  | arbFrameSeen src => exact (frameSeen_rxFrame src s).lineKept.enabled
  | txSched => exact execTxSched_lineStep s
  | txBegin c => exact execTxBegin_lineStep c s
  | txSeg => exact .enabled (.kept (hanswer _)) fun _ => .segment
  | txEnd => exact execTxEnd_lineStep s
  | hostCmd bytes => exact .accepted fun _ => .kept (enqEntry_keepsLine (.command ⟨bytes, .loc, s.now⟩) s)
  | hostRxPop => exact (answer_dropHead_keepsLine _ .rxq s).always
  | hostRxWait _ => exact .ite (fun _ => (hanswer _).always) fun _ => (answer_dropHead_keepsLine _ .rxq s).always
  | hostSetPassive _ => exact LineStep.kept ⟨rfl, rfl⟩
  | hostStatus => exact (hanswer _).always
  | hostCsum _ => exact .accepted fun _ => .kept (hanswer _)
  | reset c => exact execReset_lineStep c s
  | eNoise c => exact (hnoise c).enabled
  | eChecksum cause => exact (hafter cause _).enabled
  | eLength cause => exact (hafter cause _).enabled
  | eOverflow => exact ((raise_rxFrame _ s).trans (resetIdle_rxFrame _)).lineKept.enabled
  | eStarved => exact (hraise _).enabled
  | eConfig => exact LineKept.enabled ⟨rfl, rfl⟩
  | eDomain => exact (LineKept.refl s).always
  | eQdrop _ => exact (hraise _).enabled
  | frameOk _ _ => exact (hraise _).always
  | txStart _ => exact (hraise _).always
  | txDone _ => exact (hraise _).always
  | cmdDropped _ => exact (hraise _).always

/-! #### The draws -/

theorem contention_iff {s : State} : contention s = true ↔ s.line.dir = .output ∧ s.line.ext = low := by
  simp [contention]

theorem LineFrame.contention {s t : State} (h : LineFrame s t) : contention t = contention s := by
  rw [Machine.contention, h.dir, h.ext, ← Machine.contention]

/-- A contended line settles on a draw (R31; log 4). -/
theorem settleLine_of_contention {s : State} (h : contention s = true) :
    (settleLine s).line.draws = s.line.draws + 1 ∧ (settleLine s).line.level = Config.lineDraw s.line.draws := by
  obtain ⟨hd, he⟩ := contention_iff.mp h
  rw [settleLine_line]
  simp [relevel, hd, he]

/-- A line nobody contends settles without a draw (R31). -/
theorem settleLine_draws_of_quiet {s : State} (h : contention s = false) :
    (settleLine s).line.draws = s.line.draws := by
  rw [settleLine_line]
  rcases relevel_cases s with ⟨-, hr⟩ | ⟨-, -, hr⟩ | ⟨hd, he, -⟩
  · rw [hr]
  · rw [hr]
  · rw [contention_iff.mpr ⟨hd, he⟩] at h
    cases h

/-- The next draw has been made and is the level. -/
def Drawn (s t : State) : Prop :=
  t.line.draws = s.line.draws + 1 ∧ t.line.level = Config.lineDraw s.line.draws

/-- At most one draw is made, and only where the line ends contended. -/
def DrawsOnce (s t : State) : Prop := t.line.draws = s.line.draws ∨ contention t = true ∧ Drawn s t

/-- A line that settles after an update which draws nothing. -/
theorem DrawsOnce.of_settleLine {s u : State} (h : u.line.draws = s.line.draws) : DrawsOnce s (settleLine u) := by
  cases hc : contention u
  · exact .inl ((settleLine_draws_of_quiet hc).trans h)
  · obtain ⟨hdraws, hlevel⟩ := settleLine_of_contention hc
    exact .inr ⟨(settleLine_lineFrame u).contention.trans hc, h ▸ hdraws, h ▸ hlevel⟩

theorem LineStep.drawsOnce {s t : State} {i : Instr} (h : LineStep s i t) : DrawsOnce s t := by
  cases h with
  | kept h => exact .inl (by rw [h.line])
  | imposed v => exact .of_settleLine rfl
  | begun _ _ h => exact .of_settleLine (by simp [h.line])
  | segment => exact .of_settleLine rfl
  | ended => exact .inl (by rw [txEndOp_eq])
  | reset c => exact .inl (by rw [resetOp_eq]; rfl)

/-- The draw a step adds makes up for the one its instruction did not make (U1; log 4). -/
theorem DrawsOnce.contendLine {s u : State} (h : DrawsOnce s u) :
    (contention (contendLine s.line.draws u) = true → Drawn s (contendLine s.line.draws u)) ∧
    (contention (contendLine s.line.draws u) = false → (contendLine s.line.draws u).line.draws = s.line.draws) := by
  rw [(contendLine_lineFrame s.line.draws u).contention]
  constructor
  · intro hc
    rcases h with hsame | ⟨-, hdrawn⟩
    · rw [Machine.contendLine, hc, hsame, beq_self_eq_true, Bool.true_and, if_pos rfl, Drawn, ← hsame]
      exact settleLine_of_contention hc
    · have hother : (u.line.draws == s.line.draws) = false := by
        obtain ⟨hdraws, -⟩ := hdrawn
        simp [hdraws]
      rw [Machine.contendLine, hother, Bool.and_false, if_neg Bool.false_ne_true]
      exact hdrawn
  · intro hc
    rw [contendLine_of_quiet hc]
    rcases h with hsame | ⟨hcont, -⟩
    · exact hsame
    · rw [hc] at hcont
      cases hcont

/-- A step with a script runs one instruction and adds what a contended line wants (log 4, log 7). -/
theorem step_next {s t : State} (hs : s.script ≠ []) (h : step s = .next t) :
    ∃ i rest u, exec i { s with script := rest } = .next u ∧ t = contendLine s.line.draws u := by
  cases hd : decode s.cfg s.script with
  | ok r =>
    obtain ⟨i, rest⟩ := r
    rw [step_of_decode_ok hd] at h
    cases hx : exec i { s with script := rest } with
    | next u =>
      rw [hx] at h
      cases h
      exact ⟨i, rest, u, hx, rfl⟩
    | fault e => cases e
    | refused e =>
      rw [hx] at h
      cases h
  | error e =>
    rw [step_of_decode_error hs hd] at h
    cases h

/-- Settles O4: the instruction draws at most once, and the step draws where it did not. -/
theorem oneDrawPerContendedStep : Obligations.OneDrawPerContendedStep := by
  unfold Obligations.OneDrawPerContendedStep
  intro s t hs h
  obtain ⟨i, rest, u, hx, rfl⟩ := step_next hs h
  have hline : LineStep { s with script := rest } i u := (exec_lineStep i _).of_next hx
  exact hline.drawsOnce.contendLine (s := { s with script := rest })

/-! #### The mode -/

theorem mayTransmit_iff {s : State} :
    mayTransmit s = true ↔ s.cfg.pinConfigured = true ∧ s.arb.passive = false ∧ txAllowed s = true := by
  simp [mayTransmit, and_assoc]

theorem atDeadline_iff {s : State} : atDeadline s = true ↔ s.arb.mode = .transmitting ∧ s.now = s.seq.deadline := by
  simp [atDeadline, isTransmitting]

theorem settleLine_mode (s : State) : (settleLine s).arb.mode = s.arb.mode := by rw [(settleLine_lineFrame s).arb]

/-- Settles O44, by the ways in which a row can move the mode. -/
theorem modeMoves : Obligations.ModeMoves := by
  unfold Obligations.ModeMoves
  intro i s t h
  have same (hm : t.arb.mode = s.arb.mode) {p q : Prop} :
      (s.arb.mode = .receiving → t.arb.mode = .transmitting → p) ∧
      (s.arb.mode = .transmitting → t.arb.mode = .receiving → q) := by
    rw [hm]
    constructor <;> intro h1 h2 <;> rw [h1] at h2 <;> cases h2
  cases (exec_lineStep i s).of_next h with
  | kept h => exact same h.mode
  | imposed v => exact same (settleLine_mode _)
  | begun row may h =>
    refine ⟨fun _ _ => ⟨row.imp_right fun hi => ⟨_, hi⟩, mayTransmit_iff.mp may⟩, fun _ hm => ?_⟩
    rw [txBeginOp, settleLine_mode] at hm
    cases hm
  | segment => exact same (settleLine_mode _)
  | ended due last =>
    refine ⟨fun _ hm => ?_, fun _ _ => .inl ⟨rfl, (atDeadline_iff.mp due).2, atLastSegment_iff.mp last⟩⟩
    rw [txEndOp_eq] at hm
    cases hm
  | reset c =>
    refine ⟨fun _ hm => ?_, fun _ _ => .inr ⟨c, rfl⟩⟩
    rw [resetOp_eq] at hm
    cases hm

end Sys2Proof.Machine

/-! ### The invariant: what writes no control register

The outputs and the script are free, and a queue may take any contents it may hold. -/
namespace Sys2Proof.Machine

/-- New queues, outputs and script, where the queues hold what they may (R26, R27, R43, R85). -/
theorem BlockInv.with_queues {s : State} (hi : BlockInv s) {pq : List Pulse} {txq rxq : List RawFrame}
    (o : Outputs) (script : Bytes) (hq : QueueSafe { s with pq := pq, txq := txq, rxq := rxq })
    (hempty : s.cfg.pinConfigured = false → pq = [] ∧ rxq = []) :
    BlockInv { s with pq := pq, txq := txq, rxq := rxq, out := o, script := script } where
  cfg := hi.cfg
  cfgErr := hi.cfgErr
  disabled := fun hp => { hi.disabled hp with pq_empty := (hempty hp).1, rxq_empty := (hempty hp).2 }
  dec := hi.dec
  line := { hi.line with }
  seq := fun hm => { hi.seq hm with }
  queue := { hq with }
  time := { hi.time with }

theorem BlockInv.queues_empty {s : State} (hi : BlockInv s) (hp : s.cfg.pinConfigured = false) :
    s.pq = [] ∧ s.rxq = [] := ⟨(hi.disabled hp).pq_empty, (hi.disabled hp).rxq_empty⟩

theorem BlockInv.with_outputs {s : State} (hi : BlockInv s) (o : Outputs) (script : Bytes) :
    BlockInv { s with out := o, script := script } := hi.with_queues o script hi.queue hi.queues_empty

theorem BlockInv.raise {s : State} (hi : BlockInv s) (ev : Event) : BlockInv (raise ev s) := hi.with_outputs _ _

theorem BlockInv.answer {s : State} (hi : BlockInv s) (r : Result) : BlockInv (answer r s) := hi.with_outputs _ _

theorem all_enqList {α : Type} {p : α → Bool} {cap : Nat} {q : List α} {v : α} (hq : q.all p = true)
    (hv : p v = true) : (enqList cap q v).all p = true := by
  rw [List.all_eq_true] at hq ⊢
  intro x hx
  rcases mem_enqList hx with hx | rfl
  · exact hq x hx
  · exact hv

theorem all_tail {α : Type} {p : α → Bool} {q : List α} (hq : q.all p = true) : q.tail.all p = true := by
  rw [List.all_eq_true] at hq ⊢
  exact fun x hx => hq x (List.mem_of_mem_tail hx)

/-- Every queue has room for an entry at least (R5 (f)). -/
theorem depths_pos {c : Cfg} (h : cfgWf c = true) : 1 ≤ c.pqDepth ∧ 1 ≤ c.rxqDepth ∧ 1 ≤ c.txqDepth := by
  obtain ⟨-, -, -, -, -, -, -, -, hpq, hrxq, htxq, -⟩ := cfgWf_parts h
  exact ⟨hpq, hrxq, htxq⟩

theorem BlockInv.enqPulse {s : State} (hi : BlockInv s) (hp : s.cfg.pinConfigured = true) (p : Pulse) :
    BlockInv (enqPulse p s) := by
  obtain ⟨hdepth, -, -⟩ := depths_pos hi.cfg
  rw [enqPulse_eq]
  exact hi.with_queues _ _ { hi.queue with pq_le := enqList_length_le p hdepth hi.queue.pq_le } fun h => by simp_all

theorem BlockInv.enqReceived {s : State} (hi : BlockInv s) (hp : s.cfg.pinConfigured = true) {f : RawFrame}
    (hf : receivedOk f = true) : BlockInv (enqReceived f s) := by
  obtain ⟨-, hdepth, -⟩ := depths_pos hi.cfg
  rw [enqReceived_eq]
  exact hi.with_queues _ _
    { hi.queue with
      rxq_le := enqList_length_le f hdepth hi.queue.rxq_le
      received := all_enqList hi.queue.received hf } fun h => by simp_all

theorem BlockInv.enqCommand {s : State} (hi : BlockInv s) {f : RawFrame} (hf : commandOk f = true) :
    BlockInv (enqCommand f s) := by
  obtain ⟨-, -, hdepth⟩ := depths_pos hi.cfg
  rw [enqCommand_eq]
  exact hi.with_queues _ _
    { hi.queue with
      txq_le := enqList_length_le f hdepth hi.queue.txq_le
      commands := all_enqList hi.queue.commands hf } hi.queues_empty

theorem BlockInv.enqEntry {s : State} (hi : BlockInv s) {e : QueueEntry} (hok : entryOk e = true)
    (hen : enqEnabled e s = true) : BlockInv (enqEntry e s) := by
  cases e with
  | pulse p => exact hi.enqPulse hen p
  | received f => exact hi.enqReceived hen hok
  | command f => exact hi.enqCommand hok

/-- A queue without its oldest entry holds what it held (R45). -/
theorem BlockInv.dropHead {s : State} (hi : BlockInv s) (q : QueueId) : BlockInv (dropHead q s) := by
  have hq := hi.queue
  cases q with
  | pq =>
    exact hi.with_queues _ _ { hq with pq_le := by simpa using Nat.le_succ_of_le hq.pq_le }
      fun hp => by simp [hi.queues_empty hp]
  | rxq =>
    exact hi.with_queues _ _
      { hq with rxq_le := by simpa using Nat.le_succ_of_le hq.rxq_le, received := all_tail hq.received }
      fun hp => by simp [hi.queues_empty hp]
  | txq =>
    exact hi.with_queues _ _
      { hq with txq_le := by simpa using Nat.le_succ_of_le hq.txq_le, commands := all_tail hq.commands }
      hi.queues_empty

theorem BlockInv.flushQueue {s : State} (hi : BlockInv s) (q : QueueId) : BlockInv (flushQueue q s) := by
  cases q with
  | pq => exact hi.with_queues _ _ { hi.queue with pq_le := Nat.zero_le _ } fun hp => ⟨rfl, (hi.queues_empty hp).2⟩
  | rxq =>
    exact hi.with_queues _ _ { hi.queue with rxq_le := Nat.zero_le _, received := rfl }
      fun hp => ⟨(hi.queues_empty hp).1, rfl⟩
  | txq => exact hi.with_queues _ _ { hi.queue with txq_le := Nat.zero_le _, commands := rfl } hi.queues_empty

end Sys2Proof.Machine

/-! ### The invariant: the decoder's registers (R18, R108) -/
namespace Sys2Proof.Machine

/-- No frame in progress, or a fresh one: the data registers are empty (R97). -/
theorem DecSafe.emptied {buf : Memory} (hb : Memory.wf buf = true) {st : DecState} (hst : st ≠ .complete) :
    DecSafe ⟨buf, 0, 0, 0, st, .phNone⟩ :=
  ⟨hb, Nat.zero_le _, Nat.zero_le _, Nat.one_pos, hst, fun _ => ⟨rfl, rfl, rfl, Phase.noConfusion⟩⟩

/-- A phase may be written as long as an Idle decoder is not left in a bit (R18). -/
theorem DecSafe.with_phase {d : Dec} (h : DecSafe d) {ph : Phase} (hph : d.state = .idle → ph ≠ .phBitLow) :
    DecSafe { d with phase := ph } :=
  { h with
    idle_empty := fun hidle =>
      have ⟨hbytes, hbits, hcur, _⟩ := h.idle_empty hidle
      ⟨hbytes, hbits, hcur, hph hidle⟩ }

/-- The bits of a partial byte with one more bit behind them (R104). -/
theorem shifted_lt {cur n : Nat} (v : Bool) (h : cur < 2 ^ n) : 2 * cur + v.toNat < 2 ^ (n + 1) := by
  have hv := Bool.toNat_le v
  rw [Nat.pow_succ]
  omega

/-- A bit that has room keeps R18 (R104). -/
theorem DecSafe.shiftBit {d : Dec} (h : DecSafe d) (hstarted : d.state = .started) (hroom : d.nbytes ≠ bufSize)
    (v : Bool) : DecSafe (shiftBit v d) := by
  have hnot : d.state ≠ .idle := by simp [hstarted]
  have hbytes := h.nbytes_le
  have hbits := h.nbits_le
  have hsize : d.nbytes ≠ 12 := hroom
  unfold Machine.shiftBit
  split
  · exact ⟨bufWrite_wf _ _ h.bufWf, by dsimp only; omega, Nat.zero_le _, Nat.one_pos, h.not_complete,
      fun hidle => absurd hidle hnot⟩
  · refine ⟨h.bufWf, hbytes, by dsimp only; omega, ?_, h.not_complete, fun hidle => absurd hidle hnot⟩
    rw [BitVec.toNat_ofNat]
    exact lt_of_le_of_lt ((Nat.mod_le _ _).trans (Nat.mod_le _ _)) (shifted_lt v h.cur_lt)

theorem resetIdle_decSafe {s : State} (h : Memory.wf s.dec.buf = true) : DecSafe (resetIdle s).dec :=
  .emptied h DecState.noConfusion

theorem beginFrame_decSafe {s : State} (h : Memory.wf s.dec.buf = true) : DecSafe (beginFrame s).dec :=
  .emptied h DecState.noConfusion

theorem afterFrame_decSafe (cause : EndCause) {s : State} (h : Memory.wf s.dec.buf = true) :
    DecSafe (afterFrame cause s).dec := by
  cases cause with
  | timeout => exact resetIdle_decSafe h
  | restart => exact beginFrame_decSafe h

theorem noiseOp_decSafe (c : PulseClass) {s : State} (h : Memory.wf s.dec.buf = true) : DecSafe (noiseOp c s).dec :=
  resetIdle_decSafe h

/-- A frame's end leaves R18 behind, although `complete` passes through `DEC.state = Complete` (R106, R108). -/
theorem completeOp_decSafe (cause : EndCause) {s : State} (h : Memory.wf s.dec.buf = true) :
    DecSafe (completeOp cause s).dec := by
  rw [completeOp_dec]
  exact .emptied h (by cases cause <;> exact DecState.noConfusion)

theorem pushBitOp_decSafe {s : State} (h : DecSafe s.dec) (hstarted : s.dec.state = .started) (v : Bool) :
    DecSafe (pushBitOp v s).dec := by
  rcases pushBitOp_cases v s with ⟨-, hr⟩ | ⟨hroom, hr⟩ <;> rw [hr]
  · exact resetIdle_decSafe h.bufWf
  · exact h.shiftBit hstarted hroom v

theorem DecSafe.ite {p : Prop} [Decidable p] {t u : State} (ht : p → DecSafe t.dec) (hu : DecSafe u.dec) :
    DecSafe (if p then t else u).dec := by
  split
  · exact ht ‹_›
  · exact hu

/-- The decoder operation of every pulse class keeps R18 (R98 to R103, R110). -/
theorem decodeClass_decSafe (c : PulseClass) {s : State} (h : DecSafe s.dec) : DecSafe (decodeClass c s).dec := by
  have hnone (t : State) (ht : DecSafe t.dec) : DecSafe (setPhase .phNone t).dec :=
    ht.with_phase fun _ => Phase.noConfusion
  have hlow : DecSafe (setPhase .phStartLow s).dec := h.with_phase fun _ => Phase.noConfusion
  have hnoise := noiseOp_decSafe c h.bufWf
  have hpush (hstarted : s.dec.state = .started) (v : Bool) : DecSafe (setPhase .phNone (pushBitOp v s)).dec :=
    hnone _ (pushBitOp_decSafe h hstarted v)
  have hbit (hstarted : s.dec.state = .started) : DecSafe (setPhase .phBitLow s).dec :=
    h.with_phase fun hidle => by simp [hstarted] at hidle
  have hidle := hnone s h
  cases c with
  | startLo => exact .ite (fun _ => hlow) (.ite (fun _ => hlow) hnoise)
  | startHi =>
    exact .ite (fun _ => beginFrame_decSafe h.bufWf)
      (.ite (fun _ => hidle) (.ite (fun _ => completeOp_decSafe _ h.bufWf) hnoise))
  | bitLo => exact .ite (fun _ => hidle) (.ite (fun hc => hbit hc.1) hnoise)
  | bitShort => exact .ite (fun _ => hidle) (.ite (fun hc => hpush hc.1 _) hnoise)
  | bitLong => exact .ite (fun _ => hidle) (.ite (fun hc => hpush hc.1 _) hnoise)
  | idle => exact .ite (fun _ => hidle) (completeOp_decSafe _ h.bufWf)
  | invalid => exact .ite (fun _ => hidle) hnoise

end Sys2Proof.Machine

/-! ### The invariant: what has been received (R27, R43, R129) -/
namespace Sys2Proof.Machine

/-- `RXQ` is within its capacity and holds valid frames, and the arbiter's stamps of frames seen are in the past. -/
structure ReceivedSafe (s : State) : Prop where
  depth_pos : 1 ≤ s.cfg.rxqDepth
  rxq_le : s.rxq.length ≤ s.cfg.rxqDepth
  received : s.rxq.all receivedOk = true
  heater_past : pastStamp s.now s.arb.lastSeenHeater
  controller_past : pastStamp s.now s.arb.lastSeenController

theorem BlockInv.receivedSafe {s : State} (hi : BlockInv s) : ReceivedSafe s :=
  have ⟨_, hdepth, _⟩ := depths_pos hi.cfg
  ⟨hdepth, hi.queue.rxq_le, hi.queue.received, hi.time.heater_past, hi.time.controller_past⟩

/-- The decoder and the log have no part in it. -/
theorem ReceivedSafe.with_dec {s : State} (h : ReceivedSafe s) (d : Dec) (o : Outputs) :
    ReceivedSafe { s with dec := d, out := o } := { h with }

/-- A frame is stamped with the present time (R135). -/
theorem ReceivedSafe.frameSeen {s : State} (h : ReceivedSafe s) (src : Source) : ReceivedSafe (frameSeen src s) := by
  have hnow : pastStamp s.now (some s.now) := Nat.le_refl _
  cases src with
  | controller => exact { h with controller_past := hnow }
  | heater => exact { h with heater_past := hnow }
  | unknown => exact h
  | loc => exact h

theorem ReceivedSafe.enqReceived {s : State} (h : ReceivedSafe s) {f : RawFrame} (hf : receivedOk f = true) :
    ReceivedSafe (enqReceived f s) := by
  rw [enqReceived_eq]
  exact { h with rxq_le := enqList_length_le f h.depth_pos h.rxq_le, received := all_enqList h.received hf }

theorem ReceivedSafe.finalizeOp {s : State} (h : ReceivedSafe s) {bytes : Bytes} {src : Source}
    (hf : receivedOk ⟨bytes, src, s.now⟩ = true) : ReceivedSafe (finalizeOp bytes src s) :=
  ((h.frameSeen src).enqReceived hf).with_dec _ _

/-- What the validator stores of a whole frame may be in `RXQ` (R125, R127, R182). -/
theorem receivedOk_of_verdict {bytes bytes' : Bytes} {src : Source} (hlen : legalLen bytes.length = true)
    (h : verdict bytes = some (bytes', src)) (t : Nat) : receivedOk ⟨bytes', src, t⟩ = true := by
  unfold verdict at h
  split at h
  · next hv =>
    cases h
    simp [receivedOk, hlen, hv]
  · split at h
    · next hv =>
      cases h
      have hlen' : legalLen (complementBytes bytes).length = true := by rwa [complementBytes, List.length_map]
      simp [receivedOk, hlen', hv]
    · cases h

theorem ReceivedSafe.validateOp {s : State} (h : ReceivedSafe s) (hlen : legalLen s.dec.nbytes = true) :
    ReceivedSafe (validateOp s) := by
  rcases validateOp_cases s with ⟨bytes, src, hv, hr⟩ | ⟨-, hr⟩ <;> rw [hr]
  · have hcandidate : legalLen (candidate s).length = true := by rwa [candidate, bufTake_length]
    exact h.finalizeOp (receivedOk_of_verdict hcandidate hv s.now)
  · exact h.with_dec _ _

theorem ReceivedSafe.judgeFrame {s : State} (h : ReceivedSafe s) : ReceivedSafe (judgeFrame s) := by
  unfold Machine.judgeFrame
  split
  · next hw =>
    obtain ⟨hlen, -⟩ := Bool.and_eq_true_iff.mp hw
    exact (h.with_dec _ s.out).validateOp hlen
  · exact h.with_dec _ _

theorem ReceivedSafe.afterFrame {s : State} (h : ReceivedSafe s) (cause : EndCause) :
    ReceivedSafe (afterFrame cause s) := by
  cases cause <;> exact h.with_dec _ _

theorem ReceivedSafe.completeOp {s : State} (h : ReceivedSafe s) (cause : EndCause) :
    ReceivedSafe (completeOp cause s) := h.judgeFrame.afterFrame cause

theorem ReceivedSafe.pushBitOp {s : State} (h : ReceivedSafe s) (v : Bool) : ReceivedSafe (pushBitOp v s) := by
  rcases pushBitOp_cases v s with ⟨-, hr⟩ | ⟨-, hr⟩ <;> rw [hr] <;> exact h.with_dec _ _

theorem ReceivedSafe.ite {p : Prop} [Decidable p] {t u : State} (ht : ReceivedSafe t) (hu : ReceivedSafe u) :
    ReceivedSafe (if p then t else u) := by
  split
  · exact ht
  · exact hu

/-- Only the end of a frame receives one (R98 to R103, R110). -/
theorem ReceivedSafe.decodeClass {s : State} (h : ReceivedSafe s) (c : PulseClass) :
    ReceivedSafe (decodeClass c s) := by
  have hphase (ph : Phase) : ReceivedSafe (setPhase ph s) := h.with_dec _ _
  have hnoise : ReceivedSafe (noiseOp c s) := h.with_dec _ _
  have hpush (v : Bool) : ReceivedSafe (setPhase .phNone (Machine.pushBitOp v s)) := (h.pushBitOp v).with_dec _ _
  cases c with
  | startLo => exact .ite (hphase _) (.ite (hphase _) hnoise)
  | startHi => exact .ite (h.with_dec _ _) (.ite (hphase _) (.ite (h.completeOp _) hnoise))
  | bitLo => exact .ite (hphase _) (.ite (hphase _) hnoise)
  | bitShort => exact .ite (hphase _) (.ite (hpush _) hnoise)
  | bitLong => exact .ite (hphase _) (.ite (hpush _) hnoise)
  | idle => exact .ite (hphase _) (h.completeOp _)
  | invalid => exact .ite (hphase _) hnoise

end Sys2Proof.Machine

/-! ### The invariant: the receive side -/
namespace Sys2Proof.Machine

/-- An operation of the receive side, with a pin bound, keeps the invariant if it keeps R18 and the received frames; while
Transmitting it must leave the decoder Idle (R52 (e)). -/
theorem BlockInv.of_rxFrame {s t : State} (hi : BlockInv s) (hp : s.cfg.pinConfigured = true) (hf : RxFrame s t)
    (hdec : DecSafe t.dec) (hrx : ReceivedSafe t) (hidle : s.arb.mode = .transmitting → t.dec.state = .idle) :
    BlockInv t where
  cfg := hf.cfg ▸ hi.cfg
  cfgErr := by rw [hf.cfgErr, hf.cfg]; exact hi.cfgErr
  disabled := fun h => by rw [hf.cfg, hp] at h; cases h
  dec := hdec
  line := by
    obtain ⟨hin, hout, hlevel, hdriven, hcap⟩ := hi.line
    exact ⟨by rwa [hf.mode, hf.line], by rwa [hf.mode, hf.line], by rwa [hf.line], by rwa [hf.line],
      by rwa [hf.cfg, hf.cap, hf.line]⟩
  seq := fun hm => by
    rw [hf.mode] at hm
    obtain ⟨hpin, hlegal, hrep, hpos, hout, hnow, -⟩ := hi.seq hm
    exact ⟨by rwa [hf.cfg], by rwa [hf.seq], by rwa [hf.seq, hf.cfg], by rwa [hf.seq], by rwa [hf.line, hf.cfg, hf.seq],
      by rwa [hf.now, hf.seq], hidle hm⟩
  queue := by
    obtain ⟨hpq, -, htxq, -, hcmd⟩ := hi.queue
    exact ⟨by rwa [hf.pq, hf.cfg], hrx.rxq_le, by rwa [hf.txq, hf.cfg], hrx.received, by rwa [hf.txq]⟩
  time := by
    obtain ⟨hnow, hedge, hreset, -, -, hlocal⟩ := hi.time
    exact ⟨by rwa [hf.now], by rwa [hf.cap, hf.now], by rwa [hf.tReset, hf.now], hrx.heater_past, hrx.controller_past,
      by rwa [hf.lastLocalTx, hf.now]⟩

/-- A frame in flight is one of a bound pin, while Receiving (R52 (e), R85). -/
theorem BlockInv.of_inFlight {s : State} (hi : BlockInv s) (h : inFlight s = true) :
    s.cfg.pinConfigured = true ∧ s.arb.mode = .receiving ∧ s.dec.state = .started := by
  simp only [inFlight, isReceiving, started, Bool.and_eq_true, beq_iff_eq] at h
  obtain ⟨hmode, hstarted⟩ := h
  refine ⟨?_, hmode, hstarted⟩
  cases hp : s.cfg.pinConfigured with
  | true => rfl
  | false =>
    have hidle := (hi.disabled hp).dec_idle
    rw [hstarted] at hidle
    cases hidle

/-- What a row does to a frame in flight. -/
theorem BlockInv.frame_in_flight {s t : State} (hi : BlockInv s) (h : inFlight s = true) (hf : RxFrame s t)
    (hdec : DecSafe t.dec) (hrx : ReceivedSafe t) : BlockInv t := by
  obtain ⟨hp, hmode, -⟩ := hi.of_inFlight h
  exact hi.of_rxFrame hp hf hdec hrx fun hm => by rw [hmode] at hm; cases hm

theorem BlockInv.noiseOp {s : State} (hi : BlockInv s) (h : inFlight s = true) (c : PulseClass) :
    BlockInv (noiseOp c s) :=
  hi.frame_in_flight h (noiseOp_rxFrame c s) (noiseOp_decSafe c hi.dec.bufWf) (hi.receivedSafe.with_dec _ _)

theorem BlockInv.pushBitOp {s : State} (hi : BlockInv s) (h : inFlight s = true) (v : Bool) :
    BlockInv (pushBitOp v s) := by
  obtain ⟨-, -, hstarted⟩ := hi.of_inFlight h
  exact hi.frame_in_flight h (pushBitOp_rxFrame v s) (pushBitOp_decSafe hi.dec hstarted v) (hi.receivedSafe.pushBitOp v)

theorem BlockInv.completeOp {s : State} (hi : BlockInv s) (h : inFlight s = true) (cause : EndCause) :
    BlockInv (completeOp cause s) :=
  hi.frame_in_flight h (completeOp_rxFrame cause s) (completeOp_decSafe cause hi.dec.bufWf)
    (hi.receivedSafe.completeOp cause)

/-- The recovery of an error that ends the frame in flight (R198, R199). -/
theorem BlockInv.afterFrame {s : State} (hi : BlockInv s) (h : inFlight s = true) (cause : EndCause) :
    BlockInv (afterFrame cause s) :=
  hi.frame_in_flight h (afterFrame_rxFrame cause s) (afterFrame_decSafe cause hi.dec.bufWf)
    (hi.receivedSafe.afterFrame cause)

/-- Every decoder operation, where it is selected (R96). -/
theorem BlockInv.decodeClass {s : State} (hi : BlockInv s) (hp : s.cfg.pinConfigured = true)
    (hm : isTransmitting s = false) (c : PulseClass) : BlockInv (decodeClass c s) :=
  hi.of_rxFrame hp (decodeClass_rxFrame c s) (decodeClass_decSafe c hi.dec) (hi.receivedSafe.decodeClass c)
    fun h => by rw [isTransmitting_eq_false.mp hm] at h; cases h

theorem BlockInv.receivePulse {s : State} (hi : BlockInv s) (hp : s.cfg.pinConfigured = true) (p : Pulse) :
    BlockInv (receivePulse p s) := by
  unfold Machine.receivePulse
  split
  · exact hi
  · exact hi.decodeClass hp (Bool.not_eq_true _ ▸ ‹_›) _

theorem BlockInv.rxPulseOp {s : State} (hi : BlockInv s) (hp : s.cfg.pinConfigured = true) :
    BlockInv (rxPulseOp s) := by
  unfold Machine.rxPulseOp
  split
  · exact hi
  · next p rest hpq =>
    have hrest : BlockInv { s with pq := s.pq.tail } := hi.dropHead .pq
    rw [hpq, List.tail_cons] at hrest
    exact hrest.receivePulse hp p

theorem BlockInv.feedTrain {s : State} (hi : BlockInv s) (hp : s.cfg.pinConfigured = true) (ps : List Pulse) :
    BlockInv (feedTrain ps s) := by
  induction ps generalizing s with
  | nil => exact hi
  | cons p ps ih =>
    have hcfg := (enqPulse_steady p s).cfg
    exact ih ((hi.enqPulse hp p).rxPulseOp (hcfg ▸ hp)) ((feedPulse_steady s p).cfg ▸ hp)

/-- `VALIDATE` and `FINALIZE` leave the decoder alone, so they may run in either mode (R125, R128). -/
theorem BlockInv.of_same_dec {s t : State} (hi : BlockInv s) (hp : s.cfg.pinConfigured = true) (hf : RxFrame s t)
    (hdec : t.dec = s.dec) (hrx : ReceivedSafe t) : BlockInv t :=
  hi.of_rxFrame hp hf (hdec ▸ hi.dec) hrx fun hm => hdec ▸ (hi.seq hm).dec_idle

theorem BlockInv.finalizeOp {s : State} (hi : BlockInv s) (hp : s.cfg.pinConfigured = true) {bytes : Bytes}
    {src : Source} (hf : receivedOk ⟨bytes, src, s.now⟩ = true) : BlockInv (finalizeOp bytes src s) :=
  hi.of_same_dec hp (finalizeOp_rxFrame bytes src s) (finalizeOp_dec bytes src s) (hi.receivedSafe.finalizeOp hf)

theorem BlockInv.frameSeen {s : State} (hi : BlockInv s) (hp : s.cfg.pinConfigured = true) (src : Source) :
    BlockInv (frameSeen src s) :=
  hi.of_same_dec hp (frameSeen_rxFrame src s) (frameSeen_dec src s) (hi.receivedSafe.frameSeen src)

end Sys2Proof.Machine

/-! ### The invariant: the line and the sequencer (R29, R30, R31) -/
namespace Sys2Proof.Machine

/-- The invariant but for the level of the line: what holds where an operation has moved the direction, the drive or the
others' level, and the line has still to settle. -/
structure Unsettled (s : State) : Prop where
  cfg : cfgWf s.cfg = true
  cfgErr : s.arb.cfgErr = !s.cfg.pinConfigured
  disabled : s.cfg.pinConfigured = false → DisabledSafe s
  dec : DecSafe s.dec
  receiving_input : s.arb.mode = .receiving → s.line.dir = .input
  transmitting_output : s.arb.mode = .transmitting → s.line.dir = .output
  captured : s.cfg.pinConfigured = true → s.cap.lastLevel = s.line.level
  seq : s.arb.mode = .transmitting → SeqSafe s
  queue : QueueSafe s
  time : TimeSafe s

theorem BlockInv.unsettled {s : State} (hi : BlockInv s) : Unsettled s :=
  { hi, hi.line with }

/-- The line at its level of R31, with the captured level in step with it and `PQ` within its capacity. -/
theorem Unsettled.settled {s : State} (h : Unsettled s) {cap : Cap} {pq : List Pulse} (o : Outputs)
    (hcap : s.cfg.pinConfigured = true → cap.lastLevel = (relevel s).line.level) (hedge : cap.lastEdge ≤ s.now)
    (hpq : pq.length ≤ s.cfg.pqDepth) (hempty : s.cfg.pinConfigured = false → pq = []) :
    BlockInv { s with line := (relevel s).line, cap := cap, pq := pq, out := o } where
  cfg := h.cfg
  cfgErr := h.cfgErr
  disabled := fun hp => { h.disabled hp with pq_empty := hempty hp }
  dec := h.dec
  line :=
    have hf := relevel_lineFrame s
    { receiving_input := fun hm => hf.dir.trans (h.receiving_input hm)
      transmitting_output := fun hm => hf.dir.trans (h.transmitting_output hm)
      level_input := fun hd => by
        replace hd := hf.dir.symm.trans hd
        simp [relevel, hd]
      level_output := fun hd he => by
        replace hd := hf.dir.symm.trans hd
        replace he := hf.ext.symm.trans he
        simp [relevel, hd, he]
      captured := hcap }
  seq := fun hm => { h.seq hm with out_eq := (relevel_lineFrame s).lineOut.trans (h.seq hm).out_eq }
  queue := { h.queue with pq_le := hpq }
  time := { h.time with lastEdge_le := hedge }

/-- The line settles into the invariant, whether the transition is captured or not (R31, R80). -/
theorem Unsettled.settleLine {s : State} (h : Unsettled s) : BlockInv (settleLine s) := by
  by_cases hedge : (relevel s).line.level ≠ s.line.level ∧ (relevel s).line.level ≠ s.cap.lastLevel ∧
      s.cfg.pinConfigured = true
  · obtain ⟨hlevel, hcap, hp⟩ := hedge
    obtain ⟨hdepth, -, -⟩ := depths_pos h.cfg
    rw [settleLine_of_edge hlevel hcap hp]
    exact h.settled _ (fun _ => rfl) (Nat.le_refl _) (enqList_length_le _ hdepth h.queue.pq_le)
      fun hno => by rw [hp] at hno; cases hno
  · rw [settleLine_of_no_edge hedge]
    refine h.settled s.out (fun hp => ?_) h.time.lastEdge_le h.queue.pq_le fun hno => (h.disabled hno).pq_empty
    have hcap := h.captured hp
    by_contra hne
    exact hedge ⟨fun he => hne (hcap.trans he.symm), fun he => hne he.symm, hp⟩

theorem BlockInv.contendLine {s : State} (hi : BlockInv s) (n : Nat) : BlockInv (contendLine n s) := by
  unfold Machine.contendLine
  split
  · exact hi.unsettled.settleLine
  · exact hi

theorem BlockInv.envLine {s : State} (hi : BlockInv s) (v : Level) :
    BlockInv (settleLine { s with line := { s.line with ext := v } }) :=
  Unsettled.settleLine
    { hi, hi.line with
      disabled := fun hp => { hi.disabled hp with }
      seq := fun hm => { hi.seq hm with }
      queue := { hi.queue with }
      time := { hi.time with } }

/-- A transmission begins (R29, R167). -/
theorem BlockInv.txBeginOp {s : State} (hi : BlockInv s) (hp : s.cfg.pinConfigured = true)
    (hidle : s.dec.state = .idle) {c : RawFrame} (hc : legalLen c.bytes.length = true) : BlockInv (txBeginOp c s) := by
  obtain ⟨-, -, -, -, -, -, -, hrepeat, -⟩ := cfgWf_parts hi.cfg
  have hseq : SeqSafe (Machine.raise (.txStart c) (takeLine c s)) :=
    ⟨hp, hc, hrepeat, Nat.zero_le _, rfl, Nat.le_add_right _ _, hidle⟩
  exact Unsettled.settleLine
    { cfg := hi.cfg
      cfgErr := hi.cfgErr
      disabled := fun hno => { hi.disabled hno with }
      dec := hi.dec
      receiving_input := fun hm => by cases hm
      transmitting_output := fun _ => rfl
      captured := hi.line.captured
      seq := fun _ => hseq
      queue := { hi.queue with }
      time := { hi.time with } }

/-- The next segment of a repetition, or the first of the next one, is still inside the transmission (R29, R169). -/
theorem nextSeq_inside {q : Seq} {n : Nat} (hrep : q.rep < n) (hpos : q.pos ≤ lastSeg q.frame.bytes)
    (hmore : q.pos ≠ lastSeg q.frame.bytes ∨ q.rep + 1 ≠ n) :
    (nextSeq q).rep < n ∧ (nextSeq q).pos ≤ lastSeg q.frame.bytes := by
  rcases nextSeq_cases q with ⟨hlt, h⟩ | ⟨hle, h⟩ <;> rw [h]
  · exact ⟨hrep, hlt⟩
  · exact ⟨by dsimp only; omega, Nat.zero_le _⟩

/-- A segment boundary that is not the end of the transmission (R169). -/
theorem BlockInv.txSegOp {s : State} (hi : BlockInv s) (hm : s.arb.mode = .transmitting)
    (hmore : atLastSegment s = false) : BlockInv (txSegOp s) := by
  have hs := hi.seq hm
  obtain ⟨hrep, hpos⟩ := nextSeq_inside hs.rep_lt hs.pos_le (atLastSegment_eq_false.mp hmore)
  refine Unsettled.settleLine
    { hi, hi.line with
      disabled := fun hno => { hi.disabled hno with }
      seq := fun _ => ⟨hs.pin, ?_, hrep, ?_, rfl, Nat.le_add_right _ _, hs.dec_idle⟩
      queue := { hi.queue with }
      time := { hi.time with } }
  · simpa using hs.legal
  · simpa using hpos

/-- The end of a transmission (R171). -/
theorem BlockInv.txEndOp {s : State} (hi : BlockInv s) : BlockInv (txEndOp s) := by
  rw [txEndOp_eq]
  exact
    { cfg := hi.cfg
      cfgErr := hi.cfgErr
      disabled := fun hp => { hi.disabled hp with pq_empty := rfl, dec_idle := rfl, dec_phase := rfl }
      dec := .emptied hi.dec.bufWf DecState.noConfusion
      line := ⟨fun _ => rfl, fun hm => Mode.noConfusion hm, fun _ => rfl, fun hd => Dir.noConfusion hd, fun _ => rfl⟩
      seq := fun hm => by cases hm
      queue := { hi.queue with pq_le := Nat.zero_le _ }
      time := { hi.time with lastEdge_le := Nat.le_refl _, localTx_past := Nat.le_refl _ } }

end Sys2Proof.Machine

/-! ### The invariant: the remaining registers -/
namespace Sys2Proof.Machine

theorem pastStamp_mono {now now' : Nat} {stamp : Option Nat} (h : pastStamp now stamp) (hle : now ≤ now') :
    pastStamp now' stamp := by
  cases stamp with
  | none => trivial
  | some t => exact Nat.le_trans h hle

/-- Time passes, not past a segment boundary and not out of range (R83, R129, R168). -/
theorem BlockInv.tick {s : State} (hi : BlockInv s) {dt : Nat} (hen : tickEnabled dt s = true)
    (hrange : s.now + dt ≤ timeMax) : BlockInv { s with now := s.now + dt } where
  cfg := hi.cfg
  cfgErr := hi.cfgErr
  disabled := fun hp => { hi.disabled hp with }
  dec := hi.dec
  line := { hi.line with }
  seq := fun hm =>
    { hi.seq hm with
      now_le := by
        have hnot : isReceiving s = false := isReceiving_eq_false.mpr hm
        simp only [tickEnabled, hnot, Bool.false_or, Bool.and_eq_true, decide_eq_true_eq] at hen
        exact hen.2 }
  queue := { hi.queue with }
  time :=
    have hle : s.now ≤ s.now + dt := Nat.le_add_right _ _
    have ht := hi.time
    { now_le := hrange
      lastEdge_le := ht.lastEdge_le.trans hle
      tReset_le := ht.tReset_le.trans hle
      heater_past := pastStamp_mono ht.heater_past hle
      controller_past := pastStamp_mono ht.controller_past hle
      localTx_past := pastStamp_mono ht.localTx_past hle }

theorem BlockInv.setPassive {s : State} (hi : BlockInv s) (v : Bool) :
    BlockInv { s with arb := { s.arb with passive := v } } where
  cfg := hi.cfg
  cfgErr := hi.cfgErr
  disabled := fun hp => { hi.disabled hp with }
  dec := hi.dec
  line := { hi.line with }
  seq := fun hm => { hi.seq hm with }
  queue := { hi.queue with }
  time := { hi.time with }

/-- `RESET` reaches the invariant from any state whose time is in range (R36, R230). -/
theorem resetOp_inv {c : Cfg} {s : State} (hc : cfgWf c = true) (hnow : s.now ≤ timeMax) : BlockInv (resetOp c s) := by
  rw [resetOp_eq]
  exact released_inv hc hnow _ _ _ _

end Sys2Proof.Machine

/-! ### The invariant: every step

Each row keeps the invariant where it is enabled, and the draw a step adds keeps it. -/
namespace Sys2Proof.Machine

/-- A row that waits where it is not enabled. -/
theorem BlockInv.enabled {s t : State} (hi : BlockInv s) {c : Prop} [Decidable c] (h : c → BlockInv t) :
    NextSatisfies BlockInv (if c then .next t else waits s) := .enabled (hi.answer _) h

/-- A row written with its disabling condition first. -/
theorem BlockInv.unless {s t : State} (hi : BlockInv s) {c : Prop} [Decidable c] (h : ¬ c → BlockInv t) :
    NextSatisfies BlockInv (if c then waits s else .next t) := .ite (fun _ => hi.answer _) h

theorem BlockInv.runDecoder {s : State} (hi : BlockInv s) (c : PulseClass) :
    NextSatisfies BlockInv (runDecoder (Machine.decodeClass c) s) := by
  refine hi.enabled fun h => ?_
  obtain ⟨hr, hp⟩ := Bool.and_eq_true_iff.mp h
  exact hi.decodeClass hp (isTransmitting_eq_false.mpr (by simpa [isReceiving] using hr)) c

theorem BlockInv.runTrain {s : State} (hi : BlockInv s) (ps : List Pulse) :
    NextSatisfies BlockInv (runTrain ps s) := hi.enabled fun hp => hi.feedTrain hp ps

theorem BlockInv.execQDeq {s : State} (hi : BlockInv s) (q : QueueId) (cancel : Bool) :
    NextSatisfies BlockInv (execQDeq q cancel s) := by
  unfold Machine.execQDeq
  split
  · exact (hi.dropHead q).answer _
  · exact hi.enabled fun _ => hi.answer _

theorem BlockInv.execQTryDeq {s : State} (hi : BlockInv s) (q : QueueId) :
    NextSatisfies BlockInv (execQTryDeq q s) := by
  unfold Machine.execQTryDeq
  split
  · exact (hi.dropHead q).answer _
  · exact hi.answer _

/-- `EDGE` has nothing left to capture between steps (R80, R81). -/
theorem BlockInv.not_edgeEnabled {s : State} (hi : BlockInv s) : edgeEnabled s = false := by
  rw [edgeEnabled_eq_false]
  cases hp : s.cfg.pinConfigured with
  | false => exact .inl rfl
  | true => exact .inr (hi.line.captured hp).symm

/-- A pulse waits in `PQ` only with a pin bound (R85). -/
theorem BlockInv.pin_of_pulse {s : State} (hi : BlockInv s) (h : ¬ s.pq.isEmpty = true) :
    s.cfg.pinConfigured = true := by
  by_contra hp
  exact h (by simp [hi.queues_empty (Bool.not_eq_true _ ▸ hp)])

theorem inFlight_of_timeoutEnabled {s : State} (h : timeoutEnabled s = true) : inFlight s = true := by
  simp only [timeoutEnabled, Bool.and_eq_true] at h
  obtain ⟨⟨⟨hr, hs⟩, -⟩, -⟩ := h
  exact Bool.and_eq_true_iff.mpr ⟨hr, hs⟩

/-- Where a transmission may begin the decoder is Idle (R108, R138). -/
theorem BlockInv.idle_of_txAllowed {s : State} (hi : BlockInv s) (h : txAllowed s = true) : s.dec.state = .idle := by
  have hnot := hi.dec.not_complete
  simp only [txAllowed, noFrameInProgress, Bool.and_eq_true, bne_iff_ne] at h
  obtain ⟨⟨hstarted, -⟩, -⟩ := h
  cases hd : s.dec.state with
  | idle => rfl
  | started => exact absurd hd hstarted
  | complete => exact absurd hd hnot

theorem legalLen_of_commandOk {c : RawFrame} (h : commandOk c = true) : legalLen c.bytes.length = true :=
  (Bool.and_eq_true_iff.mp h).1

theorem BlockInv.schedPass {s : State} (hi : BlockInv s) {c : RawFrame} (hc : commandOk c = true) :
    BlockInv (schedPass c s) := by
  have hdrop := hi.dropHead .txq
  unfold Machine.schedPass
  split
  · exact hdrop.raise _
  split
  · exact hi
  split
  · exact hi.raise _
  · next hpin _ hallowed =>
    exact hdrop.txBeginOp (Bool.not_eq_false _ ▸ hpin) (hi.idle_of_txAllowed (Bool.not_eq_false _ ▸ hallowed))
      (legalLen_of_commandOk hc)

theorem BlockInv.execTxSched {s : State} (hi : BlockInv s) : NextSatisfies BlockInv (execTxSched s) := by
  refine .ite (fun _ => ?_) fun _ => hi.answer _
  split
  · exact hi.answer _
  · next c rest hq =>
    exact hi.schedPass (List.all_eq_true.mp hi.queue.commands c (by simp [hq]))

theorem BlockInv.execTxBegin {s : State} (hi : BlockInv s) (c : RawFrame) :
    NextSatisfies BlockInv (execTxBegin c s) := by
  refine hi.enabled fun h => ?_
  simp only [Bool.and_eq_true, mayTransmit_iff] at h
  obtain ⟨⟨-, hp, -, hallowed⟩, hc⟩ := h
  exact hi.txBeginOp hp (hi.idle_of_txAllowed hallowed) (legalLen_of_commandOk hc)

theorem BlockInv.execTxSeg {s : State} (hi : BlockInv s) : NextSatisfies BlockInv (execTxSeg s) := by
  refine hi.enabled fun h => ?_
  obtain ⟨hdue, hmore⟩ := Bool.and_eq_true_iff.mp h
  exact hi.txSegOp (atDeadline_iff.mp hdue).1 (Bool.not_eq_true' _ ▸ hmore)

theorem BlockInv.execEChecksum {s : State} (hi : BlockInv s) (cause : EndCause) :
    NextSatisfies BlockInv (execEChecksum cause s) := by
  refine hi.enabled fun h => ?_
  simp only [Bool.and_eq_true] at h
  obtain ⟨⟨hf, -⟩, -⟩ := h
  exact (hi.raise _).afterFrame hf cause

theorem BlockInv.execEOverflow {s : State} (hi : BlockInv s) : NextSatisfies BlockInv (execEOverflow s) := by
  refine hi.enabled fun h => ?_
  obtain ⟨hf, -⟩ := Bool.and_eq_true_iff.mp h
  exact (hi.raise _).afterFrame hf .timeout

/-- A missing pin is reported by `RESET` already (R204, R231), so the row waits. -/
theorem BlockInv.execEConfig {s : State} (hi : BlockInv s) : NextSatisfies BlockInv (execEConfig s) := by
  refine hi.enabled fun h => ?_
  rw [hi.cfgErr] at h
  cases hp : s.cfg.pinConfigured <;> simp [hp] at h

/-- Every row keeps the invariant. -/
theorem BlockInv.exec {s : State} (hi : BlockInv s) (i : Instr) : NextSatisfies BlockInv (exec i s) := by
  have hanswer (r : Result) : BlockInv (Machine.answer r s) := hi.answer r
  have hraise (ev : Event) : BlockInv (Machine.raise ev s) := hi.raise ev
  have hpop (r : Result) : BlockInv (Machine.answer r (Machine.dropHead .rxq s)) := (hi.dropHead .rxq).answer r
  cases i with
  | decIdle _ => exact hi.runDecoder .idle
  | decBitLo _ => exact hi.runDecoder .bitLo
  | decStartLo _ => exact hi.runDecoder .startLo
  | decBitShort _ => exact hi.runDecoder .bitShort
  | decBitLong _ => exact hi.runDecoder .bitLong
  | decStartHi _ => exact hi.runDecoder .startHi
  | decInvalid _ => exact hi.runDecoder .invalid
  | start => exact hi.runTrain _
  | short => exact hi.runTrain _
  | long => exact hi.runTrain _
  | spacing => exact hi.runTrain _
  | f12 _ => exact hi.runTrain _
  | f9 _ => exact hi.runTrain _
  | envLine v => exact hi.unless fun _ => hi.envLine v
  | tick _ => exact .ite (fun hen => .accepted fun hrange => hi.tick hen hrange) fun _ => hanswer _
  | edge => exact hi.enabled fun h => by rw [hi.not_edgeEnabled] at h; cases h
  | qEnq e => exact .ite (fun hok => hi.enabled fun hen => hi.enqEntry hok hen) fun _ => trivial
  | qDeq q cancel => exact hi.execQDeq q cancel
  | qTryDeq q => exact hi.execQTryDeq q
  | qPeek _ => exact hanswer _
  | qFlush q => exact hi.flushQueue q
  | rxPulse => exact hi.unless fun h => hi.rxPulseOp (hi.pin_of_pulse h)
  | rxTimeout => exact hi.enabled fun h => hi.completeOp (inFlight_of_timeoutEnabled h) _
  | pushBit v => exact hi.enabled fun h => hi.pushBitOp h v
  | complete cause => exact hi.enabled fun h => hi.completeOp h cause
  | noise c => exact hi.enabled fun h => hi.noiseOp h c
  | lenClass _ => exact hanswer _
  | csum _ => exact hanswer _
  | validate => exact hi.enabled fun h => absurd h.1 hi.dec.not_complete
  | finalize bytes src =>
    refine hi.enabled fun h => ?_
    obtain ⟨hok, hp⟩ := Bool.and_eq_true_iff.mp h
    exact hi.finalizeOp hp hok
  | arbFrameSeen src => exact hi.enabled fun hp => hi.frameSeen hp src
  | txSched => exact hi.execTxSched
  | txBegin c => exact hi.execTxBegin c
  | txSeg => exact hi.execTxSeg
  | txEnd => exact hi.enabled fun _ => hi.txEndOp
  | hostCmd _ => exact .accepted fun hlen => hi.enqCommand (by simp [commandOk, hlen])
  | hostRxPop => exact hpop _
  | hostRxWait _ => exact hi.unless fun _ => hpop _
  | hostSetPassive v => exact hi.setPassive v
  | hostStatus => exact hanswer _
  | hostCsum _ => exact .accepted fun _ => hanswer _
  | reset c => exact .accepted fun hc => resetOp_inv hc hi.time.now_le
  | eNoise c => exact hi.enabled fun h => hi.noiseOp h c
  | eChecksum cause => exact hi.execEChecksum cause
  | eLength cause => exact hi.enabled fun h => (hraise _).afterFrame (Bool.and_eq_true_iff.mp h).1 cause
  | eOverflow => exact hi.execEOverflow
  | eStarved => exact hi.enabled fun _ => hraise _
  | eConfig => exact hi.execEConfig
  | eDomain => exact hi
  | eQdrop _ => exact hi.enabled fun _ => hraise _
  | frameOk _ _ => exact hraise _
  | txStart _ => exact hraise _
  | txDone _ => exact hraise _
  | cmdDropped _ => exact hraise _

/-- Settles O59: the instruction keeps the invariant, and so does the draw the step adds. -/
theorem stepKeepsInv : Obligations.StepKeepsInv := by
  unfold Obligations.StepKeepsInv
  intro s t hi h
  by_cases hs : s.script = []
  · rw [step_of_script_nil hs] at h
    cases h
    exact hi
  · obtain ⟨i, rest, u, hx, rfl⟩ := step_next hs h
    have hu : BlockInv u := ((hi.with_outputs s.out rest).exec i).of_next hx
    exact hu.contendLine _

end Sys2Proof.Machine

/-! ## Proofs: 20_memory.md -/

/-! ### Bounded queues -/
namespace Sys2Proof.Machine
open Sys2Proof.Stated

/-- An enqueue on a queue that holds the newest entries of a history leaves the newest of the longer history (R44). -/
theorem enqList_rtake {α : Type} {cap : Nat} (h : 1 ≤ cap) (l : List α) (v : α) :
    enqList cap (l.rtake cap) v = (l ++ [v]).rtake cap := by
  obtain ⟨n, rfl⟩ := Nat.exists_eq_add_of_le' h
  rw [List.rtake_concat_succ, enqList]
  by_cases hfull : n + 1 ≤ l.length
  · have hlen : (l.rtake (n + 1)).length = n + 1 := by
      rw [List.rtake, List.length_drop]
      omega
    have hnext : l.length - (n + 1) + 1 = l.length - n := by omega
    rw [if_pos hlen, List.rtake, List.tail_drop, hnext, List.rtake]
  · have hall {k : Nat} (hk : l.length ≤ k) : l.rtake k = l := by
      rw [List.rtake, Nat.sub_eq_zero_of_le hk, List.drop_zero]
    rw [hall (by omega), hall (by omega), if_neg (by omega)]

/-- Settles O14, by induction on the enqueues, the last one first. -/
theorem boundedQueueKeepsTheNewest : Obligations.BoundedQueueKeepsTheNewest := by
  unfold Obligations.BoundedQueueKeepsTheNewest
  intro α cap q vs hcap hq
  change vs.foldl (enqList cap) q = (q ++ vs).rtake cap
  induction vs using List.reverseRecOn with
  | nil => rw [List.foldl_nil, List.append_nil, List.rtake, Nat.sub_eq_zero_of_le hq, List.drop_zero]
  | append_singleton vs v ih => rw [List.foldl_concat, ih, enqList_rtake hcap, List.append_assoc]

/-! #### The queue rows -/

theorem dropEvents_rxq (s : State) :
    dropEvents .rxq s = evicted .rxq (decide (s.rxq.length = s.cfg.rxqDepth)) s.now := by
  simp [dropEvents, evicted, queueFull]

theorem dropEvents_txq (s : State) :
    dropEvents .txq s = evicted .txq (decide (s.txq.length = s.cfg.txqDepth)) s.now := by
  simp [dropEvents, evicted, queueFull]

theorem exec_qEnq_of_enabled {e : QueueEntry} {s : State} (hok : entryOk e = true) (hen : enqEnabled e s = true) :
    exec (.qEnq e) s = .next (enqEntry e s) := by
  change execQEnq e s = _
  rw [execQEnq, if_pos hok, if_pos hen]

/-- Settles O12, queue by queue. -/
theorem queueEnqueue : Obligations.QueueEnqueue := by
  unfold Obligations.QueueEnqueue
  refine fun s => ⟨fun p hp => ?_, fun f hf hp => ?_, fun f hf => ?_⟩
  · rw [exec_qEnq_of_enabled (e := .pulse p) rfl hp, enqEntry, enqPulse_eq, dropEvents_pq, enqList]
  · rw [exec_qEnq_of_enabled (e := .received f) hf hp, enqEntry, enqReceived_eq, dropEvents_rxq, enqList]
  · rw [exec_qEnq_of_enabled (e := .command f) hf rfl, enqEntry, enqCommand_eq, dropEvents_txq, enqList]

/-- Both dequeues take the oldest entry of a queue that has one (R45, R46). -/
theorem exec_dequeues_of_entry {q : QueueId} {e : QueueEntry} {s : State} (h : peekQueue q s = some e) (cancel : Bool) :
    exec (.qDeq q cancel) s = .next (answer (.entry (some e)) (dropHead q s)) ∧
    exec (.qTryDeq q) s = .next (answer (.entry (some e)) (dropHead q s)) := by
  change execQDeq q cancel s = _ ∧ execQTryDeq q s = _
  rw [execQDeq, execQTryDeq, h]
  exact ⟨rfl, rfl⟩

theorem exec_qTryDeq_of_empty {q : QueueId} {s : State} (h : peekQueue q s = none) :
    exec (.qTryDeq q) s = .next (answer (.entry none) s) := by
  change execQTryDeq q s = _
  rw [execQTryDeq, h]

/-- A cancelled `deq` of an empty queue answers none (R45, R49). -/
theorem exec_qDeq_cancelled {q : QueueId} {cancel : Bool} {s : State} (h : peekQueue q s = none)
    (hc : cancelled q cancel = true) : exec (.qDeq q cancel) s = .next (answer (.entry none) s) := by
  change execQDeq q cancel s = _
  rw [execQDeq, h]
  exact if_pos hc

theorem peek_and_drop_pq_cons {p : Pulse} {rest : List Pulse} {s : State} (h : s.pq = p :: rest) :
    peekQueue .pq s = some (.pulse p) ∧ dropHead .pq s = { s with pq := rest } := by simp [peekQueue, dropHead, h]

theorem peek_and_drop_rxq_cons {f : RawFrame} {rest : List RawFrame} {s : State} (h : s.rxq = f :: rest) :
    peekQueue .rxq s = some (.received f) ∧
    dropHead .rxq s = { s with rxq := rest, out := { s.out with taken := s.out.taken ++ [f] } } := by
  simp [peekQueue, dropHead, h]

theorem peek_and_drop_txq_cons {f : RawFrame} {rest : List RawFrame} {s : State} (h : s.txq = f :: rest) :
    peekQueue .txq s = some (.command f) ∧ dropHead .txq s = { s with txq := rest } := by simp [peekQueue, dropHead, h]

/-- Settles O13: a queue with an oldest entry, an empty one, and the rows that run on any queue. -/
theorem queueRead : Obligations.QueueRead := by
  unfold Obligations.QueueRead
  refine fun s cancel => ⟨fun p rest h => ?_, fun f rest h => ?_, fun f rest h => ?_,
    fun h => exec_qTryDeq_of_empty (by simp [peekQueue, h]), fun h => ?_,
    fun h => exec_qTryDeq_of_empty (by simp [peekQueue, h]), rfl, rfl, rfl, rfl, rfl, rfl⟩
  · obtain ⟨hpeek, hdrop⟩ := peek_and_drop_pq_cons h
    have hdeq := exec_dequeues_of_entry hpeek cancel
    rwa [hdrop] at hdeq
  · obtain ⟨hpeek, hdrop⟩ := peek_and_drop_rxq_cons h
    have hdeq := exec_dequeues_of_entry hpeek cancel
    rwa [hdrop] at hdeq
  · obtain ⟨hpeek, hdrop⟩ := peek_and_drop_txq_cons h
    have hdeq := exec_dequeues_of_entry hpeek cancel
    rwa [hdrop] at hdeq
  · have hpeek : peekQueue .rxq s = none := by simp [peekQueue, h]
    exact ⟨exec_qDeq_cancelled hpeek rfl, exec_qTryDeq_of_empty hpeek⟩

end Sys2Proof.Machine

/-! ### Bits into bytes -/
namespace Sys2Proof.Machine
open Sys2Proof.Stated

theorem inFlight_iff {s : State} : inFlight s = true ↔ s.arb.mode = .receiving ∧ s.dec.state = .started := by
  simp [inFlight, isReceiving, started]

/-- The arithmetic of R104 is a shift from below. -/
theorem shiftIn_eq_shiftConcat (cur : Byte) (v : Bool) :
    BitVec.ofNat 8 ((2 * cur.toNat + v.toNat) % 256) = cur.shiftConcat v := by
  apply BitVec.eq_of_toNat_eq
  rw [BitVec.toNat_shiftConcat, BitVec.toNat_ofNat, Nat.shiftLeft_eq]
  omega

/-- A bit that does not complete a byte (R104). -/
theorem shiftBit_of_partial {d : Dec} (v : Bool) (h : d.nbits ≠ 7) :
    shiftBit v d = { d with cur := d.cur.shiftConcat v, nbits := d.nbits + 1 } := by
  rw [shiftBit, shiftIn_eq_shiftConcat, if_neg (by omega)]

/-- The bit that completes a byte (R104). -/
theorem shiftBit_of_eighth {d : Dec} (v : Bool) (h : d.nbits = 7) :
    shiftBit v d =
      { d with buf := bufWrite d.buf d.nbytes (d.cur.shiftConcat v), nbytes := d.nbytes + 1, nbits := 0, cur := 0 } := by
  rw [shiftBit, shiftIn_eq_shiftConcat, if_pos (by omega)]

/-- `PUSH_BIT` of a bit that has room, for a frame in flight (R104). -/
theorem exec_pushBit_of_room {s : State} (v : Bool) (hin : inFlight s = true) (hroom : s.dec.nbytes ≠ 12) :
    exec (.pushBit v) s = .next { s with dec := shiftBit v s.dec } := by
  change execPushBit v s = _
  rw [execPushBit, if_pos hin, pushBitOp, bufSize, if_neg hroom]

theorem runAll_cons {i : Instr} {is : List Instr} {s t : State} (h : exec i s = .next t) :
    runAll (i :: is) s = runAll is t := by
  rw [runAll, h]

theorem runAll_append {is js : List Instr} {s t : State} (h : runAll is s = .next t) :
    runAll (is ++ js) s = runAll js t := by
  induction is generalizing s with
  | nil =>
    cases h
    rfl
  | cons i is ih =>
    cases hx : exec i s with
    | next u =>
      rw [runAll_cons hx] at h
      rw [List.cons_append, runAll_cons hx, ih h]
    | fault e => cases e
    | refused r =>
      rw [runAll, hx] at h
      cases h

/-- Bits that do not complete a byte are shifted into `DEC.cur` (R41, R104). -/
theorem runAll_pushBit_partial {s : State} {vs : List Bool} (hin : inFlight s = true) (hroom : s.dec.nbytes ≠ 12)
    (h : s.dec.nbits + vs.length ≤ 7) :
    runAll (vs.map .pushBit) s = .next { s with
      dec := { s.dec with cur := vs.foldl BitVec.shiftConcat s.dec.cur, nbits := s.dec.nbits + vs.length } } := by
  induction vs generalizing s with
  | nil => rfl
  | cons v vs ih =>
    rw [List.length_cons] at h
    have hstep := exec_pushBit_of_room v hin hroom
    rw [shiftBit_of_partial v (by omega)] at hstep
    have hlen : s.dec.nbits + 1 + vs.length ≤ 7 := by omega
    rw [List.map_cons, runAll_cons hstep, ih, List.foldl_cons, List.length_cons, Nat.add_right_comm, Nat.add_assoc]
    · exact hin
    · exact hroom
    · exact hlen

/-- Seven bits and an eighth complete a byte (R41, R104). -/
theorem runAll_pushBit_byte {s : State} {vs : List Bool} (v : Bool) (hin : inFlight s = true)
    (hroom : s.dec.nbytes ≠ 12) (hbits : s.dec.nbits = 0) (h : vs.length = 7) :
    runAll ((vs ++ [v]).map .pushBit) s = .next { s with
      dec := { s.dec with
        buf := bufWrite s.dec.buf s.dec.nbytes ((vs ++ [v]).foldl BitVec.shiftConcat s.dec.cur)
        nbytes := s.dec.nbytes + 1, nbits := 0, cur := 0 } } := by
  have hseven := runAll_pushBit_partial hin hroom (by rw [hbits, h])
  rw [List.map_append, runAll_append hseven, List.map_singleton]
  refine (runAll_cons (exec_pushBit_of_room v ?_ ?_)).trans ?_
  · exact hin
  · exact hroom
  · rw [runAll, shiftBit_of_eighth v (by dsimp only; rw [hbits, h]), List.foldl_concat]

/-- The bits of a byte in the order of the wire, shifted in from below, are that byte (R41). -/
theorem foldl_wireBits (b cur : Byte) : (wireBits [b]).foldl BitVec.shiftConcat cur = b := by
  refine BitVec.eq_of_getLsbD_eq fun i hi => ?_
  interval_cases i <;> simp [wireBits]

/-- Settles O23: seven bits of the byte wait in `DEC.cur` and the eighth writes it. -/
theorem eightBitsAppendTheirByte : Obligations.EightBitsAppendTheirByte := by
  unfold Obligations.EightBitsAppendTheirByte
  intro b s hr hs hroom hbits hcur
  have hbyte := runAll_pushBit_byte (vs := (wireBits [b]).dropLast) (b.getLsbD 0) (inFlight_iff.mpr ⟨hr, hs⟩)
    hroom.ne hbits rfl
  have hwire : (wireBits [b]).dropLast ++ [b.getLsbD 0] = wireBits [b] := rfl
  rw [hwire, foldl_wireBits] at hbyte
  rw [hbyte, ← hbits, ← hcur]

end Sys2Proof.Machine

/-! ### The receiver while Transmitting -/
namespace Sys2Proof.Machine
open Sys2Proof.Stated

/-- The decoder and the frame being sent are as they were. -/
structure Blinded (s t : State) : Prop where
  dec : t.dec = s.dec
  frame : t.seq.frame = s.seq.frame

theorem Blinded.refl (s : State) : Blinded s s := ⟨rfl, rfl⟩

theorem LineFrame.blinded {s t : State} (h : LineFrame s t) : Blinded s t := ⟨h.dec, by rw [h.seq]⟩

theorem RxFrame.blinded {s t : State} (h : RxFrame s t) (hd : t.dec = s.dec) : Blinded s t := ⟨hd, by rw [h.seq]⟩

theorem answer_blinded (r : Result) (s : State) : Blinded s (answer r s) := ⟨rfl, rfl⟩

theorem raise_blinded (ev : Event) (s : State) : Blinded s (raise ev s) := ⟨rfl, rfl⟩

theorem dropHead_blinded (q : QueueId) (s : State) : Blinded s (dropHead q s) := by cases q <;> exact ⟨rfl, rfl⟩

theorem flushQueue_blinded (q : QueueId) (s : State) : Blinded s (flushQueue q s) := by cases q <;> exact ⟨rfl, rfl⟩

theorem enqEntry_blinded (e : QueueEntry) (s : State) : Blinded s (enqEntry e s) := by
  cases e with
  | pulse p => rw [enqEntry, enqPulse_eq]; exact ⟨rfl, rfl⟩
  | received f => rw [enqEntry, enqReceived_eq]; exact ⟨rfl, rfl⟩
  | command f => rw [enqEntry, enqCommand_eq]; exact ⟨rfl, rfl⟩

/-- `TX_SEG` moves on in the frame being sent (R169). -/
theorem txSegOp_blinded (s : State) : Blinded s (txSegOp s) := by
  have h : LineFrame _ (txSegOp s) := settleLine_lineFrame _
  exact ⟨h.dec, h.blinded.frame.trans (nextSeq_frame s.seq)⟩

/-! #### Pulses are discarded (R52 (e), R96) -/

theorem isTransmitting_iff {s : State} : isTransmitting s = true ↔ s.arb.mode = .transmitting := by simp [isTransmitting]

theorem rxPulseOp_dec_of_transmitting {s : State} (hm : s.arb.mode = .transmitting) : (rxPulseOp s).dec = s.dec := by
  unfold rxPulseOp
  split
  · rfl
  · next p rest _ =>
    have hm' : isTransmitting { s with pq := rest } = true := isTransmitting_iff.mpr hm
    rw [receivePulse_of_transmitting hm']

theorem rxPulseOp_blinded {s : State} (hm : s.arb.mode = .transmitting) : Blinded s (rxPulseOp s) :=
  ⟨rxPulseOp_dec_of_transmitting hm, by rw [(rxPulseOp_rxFrame s).seq]⟩

theorem feedPulse_dec_of_transmitting {s : State} (hm : s.arb.mode = .transmitting) (p : Pulse) :
    (feedPulse s p).dec = s.dec := by
  rw [feedPulse, enqPulse_eq]
  exact rxPulseOp_dec_of_transmitting hm

theorem feedTrain_dec_of_transmitting {s : State} (hm : s.arb.mode = .transmitting) (ps : List Pulse) :
    (feedTrain ps s).dec = s.dec := by
  induction ps generalizing s with
  | nil => rfl
  | cons p ps ih =>
    have hmode : (feedPulse s p).arb.mode = .transmitting := (feedPulse_rxFrame s p).mode.trans hm
    rw [feedTrain_cons, ih hmode, feedPulse_dec_of_transmitting hm]

theorem feedTrain_blinded {s : State} (hm : s.arb.mode = .transmitting) (ps : List Pulse) :
    Blinded s (feedTrain ps s) :=
  ⟨feedTrain_dec_of_transmitting hm ps, by rw [(feedTrain_rxFrame ps s).seq]⟩

/-! #### Row by row -/

/-- A row that is not enabled. -/
theorem Blinded.of_waited {s : State} {r : Host.Outcome State Fault Refusal} (h : r = waited s) :
    NextSatisfies (Blinded s) r := by
  rw [h]
  exact answer_blinded .notEnabled s

/-- A row that runs where it is enabled. -/
theorem Blinded.enabled {s t : State} {c : Prop} [Decidable c] (h : Blinded s t) :
    NextSatisfies (Blinded s) (if c then .next t else waits s) := .enabled (answer_blinded _ s) fun _ => h

/-- A row that waits on a condition and runs otherwise. -/
theorem Blinded.unless {s t : State} {c : Prop} [Decidable c] (h : Blinded s t) :
    NextSatisfies (Blinded s) (if c then waits s else .next t) := .ite (fun _ => answer_blinded _ s) fun _ => h

theorem answer_dropHead_blinded (r : Result) (q : QueueId) (s : State) : Blinded s (answer r (dropHead q s)) :=
  ⟨(dropHead_blinded q s).dec, (dropHead_blinded q s).frame⟩

theorem execQDeq_blinded (q : QueueId) (cancel : Bool) (s : State) :
    NextSatisfies (Blinded s) (execQDeq q cancel s) := by
  unfold execQDeq
  split
  · exact answer_dropHead_blinded _ q s
  · exact (answer_blinded _ s).enabled

theorem execQTryDeq_blinded (q : QueueId) (s : State) : NextSatisfies (Blinded s) (execQTryDeq q s) := by
  unfold execQTryDeq
  split
  · exact answer_dropHead_blinded _ q s
  · exact answer_blinded _ s

theorem timeoutEnabled_of_transmitting {s : State} (hm : s.arb.mode = .transmitting) : timeoutEnabled s = false := by
  simp [timeoutEnabled, isReceiving_eq_false.mpr hm]

/-- While Transmitting, every row but `TX_END` and `RESET` leaves the decoder and the frame being sent alone: the decoder's
rows and those that begin a transmission wait, and a pulse that is taken is discarded. -/
theorem exec_blinded {s : State} (hm : s.arb.mode = .transmitting) (i : Instr) (hend : i ≠ .txEnd)
    (hreset : ¬ ∃ c, i = .reset c) : NextSatisfies (Blinded s) (exec i s) := by
  have hflight : inFlight s = false := inFlight_eq_false.mpr (.inl hm)
  have wait {r : Host.Outcome State Fault Refusal} (h : r = waited s) : NextSatisfies (Blinded s) r := Blinded.of_waited h
  have hpulse (op : State → State) : NextSatisfies (Blinded s) (runDecoder op s) :=
    wait (waited_of_disabled (by rw [isReceiving_eq_false.mpr hm, Bool.false_and]))
  have htrain (ps : List Pulse) : NextSatisfies (Blinded s) (runTrain ps s) := (feedTrain_blinded hm ps).enabled
  obtain ⟨hpush, hcomplete, hnoise⟩ := exec_inFlightRows_wait hflight
  have hanswer (r : Result) : Blinded s (answer r s) := answer_blinded r s
  have hraise (ev : Event) : Blinded s (raise ev s) := raise_blinded ev s
  cases i with
  | decIdle _ => exact hpulse _
  | decBitLo _ => exact hpulse _
  | decStartLo _ => exact hpulse _
  | decBitShort _ => exact hpulse _
  | decBitLong _ => exact hpulse _
  | decStartHi _ => exact hpulse _
  | decInvalid _ => exact hpulse _
  | start => exact htrain _
  | short => exact htrain _
  | long => exact htrain _
  | spacing => exact htrain _
  | f12 _ => exact htrain _
  | f9 _ => exact htrain _
  | envLine v => exact Blinded.unless ⟨(settleLine_lineFrame _).dec, (settleLine_lineFrame _).blinded.frame⟩
  | tick _ => exact .ite (fun _ => .accepted fun _ => ⟨rfl, rfl⟩) fun _ => hanswer _
  | edge => exact (capture_lineFrame s).blinded.enabled
  | qEnq e => exact .ite (fun _ => (enqEntry_blinded e s).enabled) fun _ => trivial
  | qDeq q cancel => exact execQDeq_blinded q cancel s
  | qTryDeq q => exact execQTryDeq_blinded q s
  | qPeek _ => exact hanswer _
  | qFlush q => exact flushQueue_blinded q s
  | rxPulse => exact (rxPulseOp_blinded hm).unless
  | rxTimeout => exact wait (exec_rxTimeout_waits (timeoutEnabled_of_transmitting hm))
  | pushBit v => exact wait (hpush v)
  | complete cause => exact wait (hcomplete cause)
  | noise c => exact wait (hnoise c).1
  | lenClass _ => exact hanswer _
  | csum _ => exact hanswer _
  | validate => exact ((validateOp_rxFrame s).blinded (validateOp_dec s)).enabled
  | finalize bytes src => exact ((finalizeOp_rxFrame bytes src s).blinded (finalizeOp_dec bytes src s)).enabled
  | arbFrameSeen src => exact ((frameSeen_rxFrame src s).blinded (frameSeen_dec src s)).enabled
  | txSched => exact wait (exec_txSched_of_transmitting hm)
  | txBegin c => exact wait (exec_txBegin_waits (.inl hm))
  | txSeg => exact (txSegOp_blinded s).enabled
  | txEnd => exact absurd rfl hend
  | hostCmd bytes => exact .accepted fun _ => enqEntry_blinded (.command ⟨bytes, .loc, s.now⟩) s
  | hostRxPop => exact answer_dropHead_blinded _ .rxq s
  | hostRxWait _ => exact (answer_dropHead_blinded _ .rxq s).unless
  | hostSetPassive _ => exact Blinded.mk rfl rfl
  | hostStatus => exact hanswer _
  | hostCsum _ => exact .accepted fun _ => hanswer _
  | reset c => exact absurd ⟨c, rfl⟩ hreset
  | eNoise c => exact wait (hnoise c).2
  | eChecksum _ => exact wait (exec_eChecksum_waits (.inl hflight))
  | eLength _ => exact wait (exec_eLength_waits (.inl hflight))
  | eOverflow => exact wait (exec_eOverflow_waits (.inl hflight))
  | eStarved => exact (hraise _).enabled
  | eConfig => exact Blinded.enabled ⟨rfl, rfl⟩
  | eDomain => exact Blinded.refl s
  | eQdrop _ => exact (hraise _).enabled
  | frameOk _ _ => exact hraise _
  | txStart _ => exact hraise _
  | txDone _ => exact hraise _
  | cmdDropped _ => exact hraise _

/-- Settles O26: `exec_blinded` is all rows but the two that the statement excepts. -/
theorem transmittingBlindsTheReceiver : Obligations.TransmittingBlindsTheReceiver := by
  unfold Obligations.TransmittingBlindsTheReceiver
  intro i s t hm h
  by_cases hend : i = .txEnd
  · exact .inl hend
  by_cases hreset : ∃ c, i = .reset c
  · exact .inr (.inl hreset)
  obtain ⟨hdec, hframe⟩ := (exec_blinded hm i hend hreset).of_next h
  exact .inr (.inr ⟨hdec, hframe⟩)

end Sys2Proof.Machine

/-! ## Proofs: 30_encoding.md -/

/-! ### The script's encoding -/
namespace Sys2Proof
open Sys2Proof.Machine

/-- What a parser reads, put under a constructor. -/
theorem parseMap_of_ok {α β : Type} {f : α → β} {r : Parsed α} {a : α} {rest : Bytes} (h : r = .ok (a, rest)) :
    parseMap f r = .ok (f a, rest) := by
  rw [h, parseMap_ok]

/-- What a parser reads, and what the next one makes of it. -/
theorem andThen_of_ok {α β : Type} {r : Parsed α} {a : α} {rest : Bytes} {k : α → Bytes → Parsed β} {x : Parsed β}
    (h : r = .ok (a, rest)) (hk : k a rest = x) : andThen r k = x := by
  rw [h, andThen_ok, hk]

/-- A one-byte number is read back. -/
theorem takeByte_number {α : Type} {n : Nat} (f : Nat → α) (rest : Bytes) (h : n < 256) :
    parseMap (fun b => f b.toNat) (takeByte (codeByte n ++ rest)) = .ok (f n, rest) := by
  rw [codeByte, List.singleton_append, takeByte_cons, parseMap_ok, BitVec.toNat_ofNat, Nat.mod_eq_of_lt h]

/-- A tick is encoded one less than it is, so that each of its 64-bit numbers is a tick (R83). -/
theorem takeNat_tick {dt : Nat} (rest : Bytes) (h : 1 ≤ dt ∧ dt ≤ timeMax + 1) :
    parseMap (fun n => Instr.tick (n + 1)) (takeNat 8 (natBytes 8 (dt - 1) ++ rest)) = .ok (.tick dt, rest) := by
  obtain ⟨hpos, hle⟩ := h
  rw [timeMax] at hle
  rw [takeNat_natBytes 8 _ _ (by omega), parseMap_ok, Nat.sub_add_cancel hpos]

/-- The bytes of a frame row are read back, as many as its format has (R66, R67). -/
theorem takeBytes_of_length {n : Nat} {bytes : Bytes} (rest : Bytes) (h : bytes.length = n) :
    takeBytes n (bytes ++ rest) = .ok (bytes, rest) := by
  subst h
  exact takeBytes_append bytes rest

/-- A pulse word is the row of its class (R63). -/
theorem decode_pulse_row {c : Cfg} {p : Pulse} {k : PulseClass} {i : Instr} (rest : Bytes)
    (hk : (classify c p == k) = true) (hi : classify c p = k → instrOfPulse c p = i) :
    decode c (0x80 :: pulseBytes p ++ rest) = .ok (i, rest) := by
  rw [decode_pulseBytes, hi (eq_of_beq hk)]

/-- A symbol word is the row of its symbol (R62). -/
theorem decode_symbol_row {c : Cfg} {p q : Pulse} {i : Instr} (rest : Bytes)
    (h : instrOfSymbol c (symbolWord [p, q]) = some i) :
    decode c (symbolBytes [p, q] ++ rest) = .ok (i, rest) := by
  rw [decode_symbolBytes c p q rest rfl, decodePair_of_symbol rest h]

/-- `RESET` without a record is read back (log 17). -/
theorem takeCfgOption_none (rest : Bytes) :
    takeCfgOption (codeByte (codeOfBool false) ++ rest) = .ok (none, rest) :=
  andThen_of_ok (takeCode_bool false rest) rfl

/-- `RESET` with a record is read back (R230). -/
theorem takeCfgOption_some {cfg : Cfg} (rest : Bytes) (h : cfgFits cfg = true) :
    takeCfgOption ((codeByte (codeOfBool true) ++ cfgBytes cfg) ++ rest) = .ok (some cfg, rest) := by
  rw [List.append_assoc]
  exact andThen_of_ok (takeCode_bool true _) (parseMap_of_ok (takeCfg_cfgBytes cfg rest h))

/-- Settles O1, row by row: the row's lead byte selects its parser, which reads its operands back. -/
theorem decodeOfEncode : Obligations.DecodeOfEncode := by
  unfold Obligations.DecodeOfEncode
  intro c i rest hc hi
  cases i with
  | decIdle p => exact decode_pulse_row rest hi fun h => by rw [instrOfPulse, h]
  | decBitLo p => exact decode_pulse_row rest hi fun h => by rw [instrOfPulse, h]
  | decStartLo p => exact decode_pulse_row rest hi fun h => by rw [instrOfPulse, h]
  | decBitShort p => exact decode_pulse_row rest hi fun h => by rw [instrOfPulse, h]
  | decBitLong p => exact decode_pulse_row rest hi fun h => by rw [instrOfPulse, h]
  | decStartHi p => exact decode_pulse_row rest hi fun h => by rw [instrOfPulse, h]
  | decInvalid p => exact decode_pulse_row rest hi fun h => by rw [instrOfPulse, h]
  | start => exact decode_symbol_row rest (instrOfSymbol_start c)
  | short => exact decode_symbol_row rest (instrOfSymbol_short c hc)
  | long => exact decode_symbol_row rest (instrOfSymbol_long c hc)
  | spacing => exact decode_symbol_row rest (instrOfSymbol_spacing c hc)
  | f12 bytes => exact (decode_83 c _).trans (parseMap_of_ok (takeBytes_of_length rest (eq_of_beq hi)))
  | f9 bytes => exact (decode_82 c _).trans (parseMap_of_ok (takeBytes_of_length rest (eq_of_beq hi)))
  | envLine v => exact (decode_00 c _).trans (parseMap_of_ok (takeCode_bool v rest))
  | tick dt => exact (decode_01 c _).trans (takeNat_tick rest (by simpa [Instr.wf] using hi))
  | edge => exact decode_08 c rest
  | qEnq e => exact (decode_10 c _).trans (parseMap_of_ok (takeEntry_entryBytes e rest hi))
  | qDeq q cancel =>
    rw [encode, List.cons_append, List.append_assoc, decode_11]
    exact andThen_of_ok (takeCode_queue q _) (parseMap_of_ok (takeCode_bool cancel rest))
  | qTryDeq q => exact (decode_12 c _).trans (parseMap_of_ok (takeCode_queue q rest))
  | qPeek q => exact (decode_13 c _).trans (parseMap_of_ok (takeCode_queue q rest))
  | qFlush q => exact (decode_14 c _).trans (parseMap_of_ok (takeCode_queue q rest))
  | rxPulse => exact decode_20 c rest
  | rxTimeout => exact decode_21 c rest
  | pushBit v => exact (decode_22 c _).trans (parseMap_of_ok (takeCode_bool v rest))
  | complete cause => exact (decode_23 c _).trans (parseMap_of_ok (takeCode_cause cause rest))
  | noise k => exact (decode_24 c _).trans (parseMap_of_ok (takeCode_class k rest))
  | lenClass n => exact (decode_28 c _).trans (takeByte_number Instr.lenClass rest (of_decide_eq_true hi))
  | csum bytes => exact (decode_29 c _).trans (parseMap_of_ok (takeBlock_blockBytes bytes rest (of_decide_eq_true hi)))
  | validate => exact decode_2a c rest
  | finalize bytes src =>
    rw [encode, List.cons_append, List.append_assoc, decode_2b]
    exact andThen_of_ok (takeCode_source src _)
      (parseMap_of_ok (takeBlock_blockBytes bytes rest (of_decide_eq_true hi)))
  | arbFrameSeen src => exact (decode_2c c _).trans (parseMap_of_ok (takeCode_source src rest))
  | txSched => exact decode_30 c rest
  | txBegin f => exact (decode_31 c _).trans (parseMap_of_ok (takeFrame_frameBytes f rest hi))
  | txSeg => exact decode_32 c rest
  | txEnd => exact decode_33 c rest
  | hostCmd bytes =>
    exact (decode_40 c _).trans (parseMap_of_ok (takeBlock_blockBytes bytes rest (of_decide_eq_true hi)))
  | hostRxPop => exact decode_41 c rest
  | hostRxWait cancel => exact (decode_42 c _).trans (parseMap_of_ok (takeCode_bool cancel rest))
  | hostSetPassive v => exact (decode_43 c _).trans (parseMap_of_ok (takeCode_bool v rest))
  | hostStatus => exact decode_44 c rest
  | hostCsum bytes =>
    exact (decode_45 c _).trans (parseMap_of_ok (takeBlock_blockBytes bytes rest (of_decide_eq_true hi)))
  | reset cfg =>
    cases cfg with
    | none => exact (decode_7f c _).trans (parseMap_of_ok (takeCfgOption_none rest))
    | some cfg => exact (decode_7f c _).trans (parseMap_of_ok (takeCfgOption_some rest hi))
  | eNoise k => exact (decode_84_01 c _).trans (parseMap_of_ok (takeCode_class k rest))
  | eChecksum cause => exact (decode_84_02 c _).trans (parseMap_of_ok (takeCode_cause cause rest))
  | eLength cause => exact (decode_84_03 c _).trans (parseMap_of_ok (takeCode_cause cause rest))
  | eOverflow => exact decode_84_04 c rest
  | eStarved => exact decode_84_05 c rest
  | eConfig => exact decode_84_06 c rest
  | eDomain => exact decode_84_07 c rest
  | eQdrop q => exact (decode_84_08 c _).trans (parseMap_of_ok (takeCode_queue q rest))
  | frameOk src len =>
    rw [encode, List.cons_append, List.cons_append, List.append_assoc, decode_84_10]
    exact andThen_of_ok (takeCode_source src _) (takeByte_number (Instr.frameOk src) rest (of_decide_eq_true hi))
  | txStart f => exact (decode_84_11 c _).trans (parseMap_of_ok (takeFrame_frameBytes f rest hi))
  | txDone f => exact (decode_84_12 c _).trans (parseMap_of_ok (takeFrame_frameBytes f rest hi))
  | cmdDropped f => exact (decode_84_13 c _).trans (parseMap_of_ok (takeFrame_frameBytes f rest hi))

/-- A word of the opcode table that is the encoding of an instruction decodes to it, whatever zeros follow. -/
theorem decodeTableWord_of_encode {nbits w : Nat} {i : Instr} (hi : i.wf Config.default = true)
    (h : tableWordBytes nbits w = encode Config.default i) : decodeTableWord nbits w = some i := by
  rw [decodeTableWord, h, decodeOfEncode Config.default i operandZeros default_cfgWf hi]

/-- Settles O2: each word, in the bytes a script holds it in, is the encoding of its row. -/
theorem specWordsDecode : Obligations.SpecWordsDecode := by
  unfold Obligations.SpecWordsDecode
  refine ⟨?_, ?_, ?_, ?_, ?_, ?_, ?_, ?_, ?_, ?_⟩ <;> exact decodeTableWord_of_encode (by decide) (by decide)

end Sys2Proof

/-! ### The classifier's windows -/
namespace Sys2Proof.Machine

/-- A window is closed, and its lower end is `target - TOL_US` (R94). -/
theorem within_iff {c : Cfg} {d target : Nat} :
    within c d target = true ↔ target - c.tol ≤ d ∧ d ≤ target + c.tol := by
  simp [within]

/-- The classes of a low pulse (R94). -/
theorem classify_low (c : Cfg) (d : Duration) :
    classify c ⟨low, d⟩ =
      if c.idleTimeout ≤ d.toNat then .idle
      else if within c d.toNat c.bitLo then .bitLo
      else if within c d.toNat c.startLo then .startLo
      else .invalid := by
  simp [classify]

/-- The classes of a high pulse (R94). -/
theorem classify_high (c : Cfg) (d : Duration) :
    classify c ⟨high, d⟩ =
      if c.idleTimeout ≤ d.toNat then .idle
      else if within c d.toNat c.shortHi then .bitShort
      else if within c d.toNat c.longHi then .bitLong
      else if within c d.toNat c.startHi then .startHi
      else .invalid := by
  simp [classify]

/-- Settles O6: each level has the windows of R63, at `TOL_US` around the default targets. -/
theorem defaultWindows : Obligations.DefaultWindows := by
  unfold Obligations.DefaultWindows
  intro lv d n
  cases lv with
  | false => simp only [classify_low, within_iff]; rfl
  | true => simp only [classify_high, within_iff]; rfl

end Sys2Proof.Machine

/-! ### Pulse trains -/
namespace Sys2Proof.Machine
open Sys2Proof.Stated

theorem bitSymbol_eq (c : Cfg) (v : Bool) : bitSymbol c v = [lowPulse c.bitLo, highPulse (hiDur c v)] := by
  unfold bitSymbol hiDur
  split <;> rfl

/-- A frame's train, by the bits in the order of the wire (R68, R74). -/
theorem frameTrain_eq (c : Cfg) (bytes : Bytes) :
    frameTrain c bytes = startSymbol c ++ (wireBits bytes).flatMap (bitSymbol c) ++ spacingSymbol c := by
  rw [frameTrain, wireBits, List.flatMap_assoc]
  rfl

/-- A pulse is queued and taken at once, by two rows or by one operation (R73). -/
theorem runAll_fed_pulse {s : State} (hp : s.cfg.pinConfigured = true) (p : Pulse) (is : List Instr) :
    runAll (.qEnq (.pulse p) :: .rxPulse :: is) s = runAll is (feedPulse s p) := by
  have hne : (enqPulse p s).pq.isEmpty = false := by simp [enqPulse, enqList]
  have hrx : exec .rxPulse (enqPulse p s) = .next (feedPulse s p) := by
    change execRxPulse _ = _
    rw [execRxPulse, hne]
    rfl
  rw [runAll_cons (exec_qEnq_of_enabled (e := .pulse p) rfl hp), enqEntry, runAll_cons hrx]

/-- A train is fed pulse by pulse (R73). -/
theorem runAll_fed {s : State} (hp : s.cfg.pinConfigured = true) (ps : List Pulse) :
    runAll (fed ps) s = .next (feedTrain ps s) := by
  induction ps generalizing s with
  | nil => rfl
  | cons p ps ih =>
    have hp' : (feedPulse s p).cfg.pinConfigured = true := by rw [(feedPulse_rxFrame s p).cfg, hp]
    have hfed : fed (p :: ps) = .qEnq (.pulse p) :: .rxPulse :: fed ps := rfl
    rw [hfed, runAll_fed_pulse hp, ih hp', feedTrain_cons]

theorem runTrain_of_pin {s : State} (hp : s.cfg.pinConfigured = true) (ps : List Pulse) :
    runTrain ps s = .next (feedTrain ps s) := if_pos hp

/-- A row that is a train runs it as the operation and as the rows of R73. -/
theorem runTrain_feeds {s : State} (hp : s.cfg.pinConfigured = true) (ps : List Pulse) :
    runTrain ps s = .next (feedTrain ps s) ∧ runTrain ps s = runAll (fed ps) s :=
  ⟨runTrain_of_pin hp ps, by rw [runTrain_of_pin hp, runAll_fed hp]⟩

/-- Settles O28: each row is `runTrain` of the symbol's two pulses, or of the frame's train by its bits. -/
theorem symbolAndFrameRowsFeedTheirPulses : Obligations.SymbolAndFrameRowsFeedTheirPulses := by
  unfold Obligations.SymbolAndFrameRowsFeedTheirPulses
  intro s hp c lo hi feeds
  have hframe (bytes : Bytes) : frameTrain s.cfg bytes =
      ([lo c.startLo, hi c.startHi] ++ (wireBits bytes).flatMap (fun v =>
        [lo c.bitLo, hi (if v = c.longBit then c.longHi else c.shortHi)])) ++ [lo c.bitLo, hi c.frameGap] := by
    rw [frameTrain_eq, funext (bitSymbol_eq s.cfg)]
    rfl
  refine ⟨runTrain_feeds hp _, runTrain_feeds hp _, runTrain_feeds hp _, runTrain_feeds hp _, fun bytes => ?_,
    fun bytes => ?_⟩
  · rw [← hframe]
    exact runTrain_feeds hp _
  · rw [← hframe]
    exact runTrain_feeds hp _

/-! #### What a class does to a receiver

One equation of `decodeClass` per case of R98 to R103 that a frame meets. -/

theorem decodeClass_ignored {s : State} {k : PulseClass} (hs : s.dec.state = .idle) (hph : s.dec.phase = .phNone)
    (hk : k ≠ .startLo) : decodeClass k s = setPhase .phNone s := by
  cases k with
  | startLo => exact absurd rfl hk
  | startHi => simp [decodeClass, decStartHiOp, hs, hph]
  | bitLo => simp [decodeClass, decBitLoOp, hs]
  | bitShort => simp [decodeClass, decBitShortOp, hs]
  | bitLong => simp [decodeClass, decBitLongOp, hs]
  | idle => simp [decodeClass, decIdleOp, hs]
  | invalid => simp [decodeClass, decInvalidOp, hs]

theorem decodeClass_startLo_of_idle {s : State} (hs : s.dec.state = .idle) :
    decodeClass .startLo s = setPhase .phStartLow s := if_pos hs

theorem decodeClass_startHi_of_idle {s : State} (hs : s.dec.state = .idle) (hph : s.dec.phase = .phStartLow) :
    decodeClass .startHi s = beginFrame s := if_pos ⟨hs, hph⟩

theorem decodeClass_startLo_of_started {s : State} (hs : s.dec.state = .started) (hph : s.dec.phase = .phNone) :
    decodeClass .startLo s = setPhase .phStartLow s := by simp [decodeClass, decStartLoOp, hs, hph]

theorem decodeClass_startHi_of_started {s : State} (hs : s.dec.state = .started) (hph : s.dec.phase = .phStartLow) :
    decodeClass .startHi s = completeOp .restart s := by simp [decodeClass, decStartHiOp, hs, hph]

theorem decodeClass_bitLo_of_started {s : State} (hs : s.dec.state = .started) (hph : s.dec.phase = .phNone) :
    decodeClass .bitLo s = setPhase .phBitLow s := by simp [decodeClass, decBitLoOp, hs, hph]

theorem decodeClass_bitShort_of_started {s : State} (hs : s.dec.state = .started) (hph : s.dec.phase = .phBitLow) :
    decodeClass .bitShort s = setPhase .phNone (pushBitOp (!s.cfg.longBit) s) := by
  simp [decodeClass, decBitShortOp, hs, hph]

theorem decodeClass_bitLong_of_started {s : State} (hs : s.dec.state = .started) (hph : s.dec.phase = .phBitLow) :
    decodeClass .bitLong s = setPhase .phNone (pushBitOp s.cfg.longBit s) := by
  simp [decodeClass, decBitLongOp, hs, hph]

theorem decodeClass_idle_of_started {s : State} (hs : s.dec.state = .started) :
    decodeClass .idle s = completeOp .timeout s := by simp [decodeClass, decIdleOp, hs]

/-! #### A receiver that decodes each pulse as it comes -/

/-- A receiver with nothing queued: a pulse fed to it is decoded at once (R44, R96). -/
structure Listening (s : State) : Prop where
  wf : cfgWf s.cfg = true
  receiving : s.arb.mode = .receiving
  drained : s.pq = []

theorem Listening.feedPulse {s : State} (h : Listening s) (p : Pulse) :
    feedPulse s p = decodeClass (classify s.cfg p) s :=
  feedPulse_of_drained p h.drained (depths_pos h.wf).1 (isTransmitting_eq_false.mpr h.receiving)

theorem Listening.decodeClass {s : State} (h : Listening s) (k : PulseClass) : Listening (decodeClass k s) :=
  have hf := decodeClass_rxFrame k s
  ⟨by rw [hf.cfg, h.wf], by rw [hf.mode, h.receiving], by rw [hf.pq, h.drained]⟩

/-- The two pulses of a symbol are decoded one after the other (R62, R73). -/
theorem Listening.feedTrain_pair {s : State} (h : Listening s) {p q : Pulse} {k l : PulseClass}
    (hp : classify s.cfg p = k) (hq : classify s.cfg q = l) :
    feedTrain [p, q] s = Machine.decodeClass l (Machine.decodeClass k s) := by
  have hcfg : (Machine.decodeClass k s).cfg = s.cfg := (decodeClass_rxFrame k s).cfg
  rw [feedTrain_cons, h.feedPulse, hp, feedTrain_cons, (h.decodeClass k).feedPulse, hcfg, hq]
  rfl

/-- Settles O29: each symbol is the classes of its two pulses, and each class its case of R98 to R103. -/
theorem wireSymbolsInContext : Obligations.WireSymbolsInContext := by
  unfold Obligations.WireSymbolsInContext
  intro s hwf hp hm hq
  have hl : Listening s := ⟨hwf, hm, hq⟩
  have hrow {p q : Pulse} {k l : PulseClass} (hk : classify s.cfg p = k) (hq : classify s.cfg q = l) :
      runTrain [p, q] s = .next (decodeClass l (decodeClass k s)) := by
    rw [runTrain_of_pin hp, hl.feedTrain_pair hk hq]
  have hstate {st : DecState} (ph : Phase) (hs : s.dec.state = st) : (setPhase ph s).dec.state = st := hs
  refine ⟨fun hs => ?_, fun hs hph => ⟨?_, ?_, ?_, ?_⟩⟩
  · refine (hrow (classify_startLo hwf) (classify_startHi hwf)).trans ?_
    rw [decodeClass_startLo_of_idle hs, decodeClass_startHi_of_idle (hstate .phStartLow hs) rfl]
    rfl
  · refine (hrow (classify_bitLo hwf) (classify_shortHi hwf)).trans ?_
    rw [decodeClass_bitLo_of_started hs hph, decodeClass_bitShort_of_started (hstate .phBitLow hs) rfl, setPhase_cfg]
  · refine (hrow (classify_bitLo hwf) (classify_longHi hwf)).trans ?_
    rw [decodeClass_bitLo_of_started hs hph, decodeClass_bitLong_of_started (hstate .phBitLow hs) rfl, setPhase_cfg]
  · refine (hrow (classify_bitLo hwf) (classify_gap hwf)).trans ?_
    rw [decodeClass_bitLo_of_started hs hph, decodeClass_idle_of_started (hstate .phBitLow hs)]
  · refine (hrow (classify_startLo hwf) (classify_startHi hwf)).trans ?_
    rw [decodeClass_startLo_of_started hs hph, decodeClass_startHi_of_started (hstate .phStartLow hs) rfl]

end Sys2Proof.Machine

/-! ### A frame's pulses move only the decoder's registers -/
namespace Sys2Proof.Machine
open Sys2Proof.Stated

/-- The class of the high half of a bit (R64). -/
def bitClass (longBit v : Bool) : PulseClass := if v = longBit then .bitLong else .bitShort

/-- The classes of the pulses of bits, two per bit (R62). -/
def bitClasses (longBit : Bool) (vs : List Bool) : List PulseClass := vs.flatMap fun v => [.bitLo, bitClass longBit v]

theorem trainClasses_eq (longBit : Bool) (vs : List Bool) :
    trainClasses longBit vs = [.startLo, .startHi] ++ bitClasses longBit vs ++ [.bitLo] := rfl

/-- A pulse of this class moves the decoder's registers like this, and nothing else: what the pulses of a frame do before
it is complete, and what a receiver at rest ignores (R98 to R104). -/
inductive DecStep (longBit : Bool) : PulseClass → Dec → Dec → Prop where
  | ignored {k : PulseClass} {d : Dec} : d.state = .idle → d.phase = .phNone → k ≠ .startLo → DecStep longBit k d d
  | startLo {d : Dec} : d.state = .idle → DecStep longBit .startLo d { d with phase := .phStartLow }
  | startHi {d : Dec} : d.state = .idle → d.phase = .phStartLow →
      DecStep longBit .startHi d ⟨d.buf, 0, 0, 0, .started, .phNone⟩
  | bitLo {d : Dec} : d.state = .started → d.phase = .phNone → DecStep longBit .bitLo d { d with phase := .phBitLow }
  | bitHi {d : Dec} (v : Bool) : d.state = .started → d.phase = .phBitLow → d.nbytes ≠ 12 →
      DecStep longBit (bitClass longBit v) d { shiftBit v d with phase := .phNone }

/-- Pulses of these classes, one after the other. -/
inductive DecRun (longBit : Bool) : List PulseClass → Dec → Dec → Prop where
  | nil {d : Dec} : DecRun longBit [] d d
  | cons {k : PulseClass} {ks : List PulseClass} {d e f : Dec} :
      DecStep longBit k d e → DecRun longBit ks e f → DecRun longBit (k :: ks) d f

theorem DecRun.append {longBit : Bool} {ks ls : List PulseClass} {d e f : Dec} (h : DecRun longBit ks d e)
    (g : DecRun longBit ls e f) : DecRun longBit (ks ++ ls) d f := by
  induction h with
  | nil => exact g
  | cons hstep _ ih => exact .cons hstep (ih g)

/-- The high half of a bit pushes the bit (R101, R102). -/
theorem decodeClass_bitClass {s : State} (v : Bool) (hs : s.dec.state = .started) (hph : s.dec.phase = .phBitLow) :
    decodeClass (bitClass s.cfg.longBit v) s = setPhase .phNone (pushBitOp v s) := by
  by_cases hv : v = s.cfg.longBit
  · rw [bitClass, if_pos hv, decodeClass_bitLong_of_started hs hph, hv]
  · rw [bitClass, if_neg hv, decodeClass_bitShort_of_started hs hph, Bool.eq_not.mpr hv]

theorem DecStep.decodeClass {s : State} {k : PulseClass} {e : Dec} (h : DecStep s.cfg.longBit k s.dec e) :
    decodeClass k s = { s with dec := e } := by
  cases h with
  | ignored hs hph hk => rw [decodeClass_ignored hs hph hk, setPhase, ← hph]
  | startLo hs => exact decodeClass_startLo_of_idle hs
  | startHi hs hph => exact decodeClass_startHi_of_idle hs hph
  | bitLo hs hph => exact decodeClass_bitLo_of_started hs hph
  | bitHi v hs hph hroom =>
    rw [decodeClass_bitClass v hs hph, pushBitOp, bufSize, if_neg hroom]
    rfl

/-- A train whose pulses move only the decoder's registers (R73). -/
theorem Listening.feedTrain {s : State} (hl : Listening s) {ps : List Pulse} {e : Dec}
    (h : DecRun s.cfg.longBit (ps.map (classify s.cfg)) s.dec e) : feedTrain ps s = { s with dec := e } := by
  induction ps generalizing s with
  | nil => cases h; rfl
  | cons p ps ih =>
    cases h with
    | @cons _ _ _ e' _ hstep hrun =>
      have hl' : Listening { s with dec := e' } := ⟨hl.wf, hl.receiving, hl.drained⟩
      rw [feedTrain_cons, hl.feedPulse, hstep.decodeClass, ih hl' hrun]

/-! #### Bits, bytes, frames -/

/-- A bit in a byte that has room (R100 to R104). -/
theorem decRun_bit {longBit : Bool} {d : Dec} (v : Bool) (hs : d.state = .started) (hph : d.phase = .phNone)
    (hroom : d.nbytes ≠ 12) : DecRun longBit [.bitLo, bitClass longBit v] d (shiftBit v d) := by
  have hshift : { shiftBit v { d with phase := .phBitLow } with phase := .phNone } = shiftBit v d := by
    unfold shiftBit
    rw [← hph]
    split <;> rfl
  rw [← hshift]
  exact .cons (.bitLo hs hph) (.cons (.bitHi v hs rfl hroom) .nil)

/-- The pulses of bits of one byte do to the decoder what pushing the bits does (R101, R102, R104). -/
theorem decRun_of_pushBits {longBit : Bool} {vs : List Bool} {s t : State} (hin : inFlight s = true)
    (hph : s.dec.phase = .phNone) (hroom : s.dec.nbytes ≠ 12) (hbits : s.dec.nbits + vs.length ≤ 8)
    (h : runAll (vs.map .pushBit) s = .next t) : DecRun longBit (bitClasses longBit vs) s.dec t.dec := by
  induction vs generalizing s with
  | nil => cases h; exact .nil
  | cons v vs ih =>
    rw [List.map_cons, runAll_cons (exec_pushBit_of_room v hin hroom)] at h
    rw [List.length_cons] at hbits
    have hbit := decRun_bit (longBit := longBit) v (inFlight_iff.mp hin).2 hph hroom
    refine hbit.append (ls := bitClasses longBit vs) ?_
    by_cases hlast : s.dec.nbits = 7
    · have hvs : vs = [] := List.eq_nil_of_length_eq_zero (by omega)
      subst hvs
      cases h
      exact .nil
    · rw [shiftBit_of_partial v hlast] at h ⊢
      have hnext := ih (h := h)
      exact hnext hin hph hroom (by change s.dec.nbits + 1 + vs.length ≤ 8; omega)

/-- The pulses of a byte append it (R41, R104). -/
theorem decRun_byte {longBit : Bool} {d : Dec} (b : Byte) (hs : d.state = .started) (hph : d.phase = .phNone)
    (hroom : d.nbytes < 12) (hbits : d.nbits = 0) (hcur : d.cur = 0) :
    DecRun longBit (bitClasses longBit (wireBits [b])) d
      { d with buf := bufWrite d.buf d.nbytes b, nbytes := d.nbytes + 1 } := by
  have hpush := eightBitsAppendTheirByte b { State.reset with dec := d } rfl hs hroom hbits hcur
  exact decRun_of_pushBits (inFlight_iff.mpr ⟨rfl, hs⟩) hph hroom.ne (by change d.nbits + 8 ≤ 8; omega) hpush

/-- The frame buffer with bytes written from index `n` on. -/
def bufWriteAll : Memory → Nat → Bytes → Memory
  | m, _, [] => m
  | m, n, b :: bs => bufWriteAll (bufWrite m n b) (n + 1) bs

theorem bufTake_bufWriteAll {m : Memory} {n : Nat} {bytes : Bytes} (h : Memory.wf m = true)
    (hn : n + bytes.length ≤ bufSize) : bufTake (bufWriteAll m n bytes) (n + bytes.length) = bufTake m n ++ bytes := by
  induction bytes generalizing m n with
  | nil => exact (List.append_nil _).symm
  | cons b bs ih =>
    rw [List.length_cons] at hn ⊢
    have hidx : n + (bs.length + 1) = n + 1 + bs.length := by omega
    rw [bufWriteAll, hidx, ih (bufWrite_wf n b h) (by omega), bufTake_append h (by omega), List.append_assoc,
      List.singleton_append]

theorem wireBits_cons (b : Byte) (bytes : Bytes) : wireBits (b :: bytes) = wireBits [b] ++ wireBits bytes := rfl

theorem bitClasses_append (longBit : Bool) (vs ws : List Bool) :
    bitClasses longBit (vs ++ ws) = bitClasses longBit vs ++ bitClasses longBit ws := List.flatMap_append

/-- The pulses of bytes append them, byte 0 first (R41, R68). -/
theorem decRun_bytes {longBit : Bool} {d : Dec} {bytes : Bytes} (hs : d.state = .started) (hph : d.phase = .phNone)
    (hroom : d.nbytes + bytes.length ≤ 12) (hbits : d.nbits = 0) (hcur : d.cur = 0) :
    DecRun longBit (bitClasses longBit (wireBits bytes)) d
      { d with buf := bufWriteAll d.buf d.nbytes bytes, nbytes := d.nbytes + bytes.length } := by
  induction bytes generalizing d with
  | nil => exact .nil
  | cons b bs ih =>
    rw [List.length_cons] at hroom ⊢
    have hidx : d.nbytes + (bs.length + 1) = d.nbytes + 1 + bs.length := by omega
    rw [wireBits_cons, bitClasses_append, hidx]
    refine (decRun_byte b hs hph (by omega) hbits hcur).append (ih hs hph ?_ hbits hcur)
    change d.nbytes + 1 + bs.length ≤ 12
    omega

/-- The decoder with a frame of these bytes received up to its terminator (R114). -/
def filled (d : Dec) (bytes : Bytes) : Dec := ⟨bufWriteAll d.buf 0 bytes, bytes.length, 0, 0, .started, .phBitLow⟩

/-- The pulses of a frame up to its terminator put its bytes in the buffer (R68, R114). -/
theorem decRun_frame {longBit : Bool} {d : Dec} {bytes : Bytes} (hs : d.state = .idle) (hlen : bytes.length ≤ 12) :
    DecRun longBit (trainClasses longBit (wireBits bytes)) d (filled d bytes) := by
  have hmarker : DecRun longBit [.startLo, .startHi] d ⟨d.buf, 0, 0, 0, .started, .phNone⟩ :=
    .cons (.startLo hs) (.cons (.startHi hs rfl) .nil)
  have hbytes := decRun_bytes (longBit := longBit) (d := ⟨d.buf, 0, 0, 0, .started, .phNone⟩) (bytes := bytes)
    rfl rfl (by rwa [Nat.zero_add]) rfl rfl
  rw [Nat.zero_add] at hbytes
  rw [trainClasses_eq]
  exact (hmarker.append hbytes).append (.cons (.bitLo rfl rfl) .nil)

theorem candidate_filled {s : State} {bytes : Bytes} (hb : Memory.wf s.dec.buf = true) (hlen : bytes.length ≤ 12) :
    candidate { s with dec := filled s.dec bytes } = bytes := by
  have h := bufTake_bufWriteAll (n := 0) hb (by rwa [Nat.zero_add])
  rwa [Nat.zero_add] at h

/-! #### The segments of a frame on the line -/

/-- Marker, bits and terminator of a frame, as segments of the line (R62, R68, R164). -/
def frameSegments (c : Cfg) (vs : List Bool) : List (Level × Nat) :=
  [(low, c.startLo), (high, c.startHi)] ++ vs.flatMap (fun v => [(low, c.bitLo), (high, hiDur c v)]) ++ [(low, c.bitLo)]

/-- A frame's train is the pulses of its segments, and the gap (R68, R73). -/
theorem frameTrain_eq_pulses (c : Cfg) (bytes : Bytes) :
    frameTrain c bytes = (frameSegments c (wireBits bytes)).map pulseOf ++ [highPulse c.frameGap] := by
  rw [frameTrain_eq, frameSegments, funext (bitSymbol_eq c), List.map_append, List.map_append, List.map_flatMap]
  simp only [List.append_assoc]
  rfl

theorem classify_hiDur {c : Cfg} (h : cfgWf c = true) (v : Bool) :
    classify c (highPulse (hiDur c v)) = bitClass c.longBit v := by
  unfold hiDur bitClass
  split
  · exact classify_longHi h
  · exact classify_shortHi h

/-- The classes of a frame's pulses are those of R68. -/
theorem classify_frameSegments {c : Cfg} (h : cfgWf c = true) (vs : List Bool) :
    ((frameSegments c vs).map pulseOf).map (classify c) = trainClasses c.longBit vs := by
  have hbit (v : Bool) : ([(low, c.bitLo), (high, hiDur c v)].map pulseOf).map (classify c) =
      [.bitLo, bitClass c.longBit v] := by
    change [classify c (lowPulse c.bitLo), classify c (highPulse (hiDur c v))] = _
    rw [classify_bitLo h, classify_hiDur h]
  have hmarker : ([(low, c.startLo), (high, c.startHi)].map pulseOf).map (classify c) = [.startLo, .startHi] := by
    change [classify c (lowPulse c.startLo), classify c (highPulse c.startHi)] = _
    rw [classify_startLo h, classify_startHi h]
  have hterm : ([(low, c.bitLo)].map pulseOf).map (classify c) = [.bitLo] := by
    change [classify c (lowPulse c.bitLo)] = _
    rw [classify_bitLo h]
  simp only [frameSegments, List.map_append, List.map_flatMap, hbit, hmarker, hterm]
  rfl

end Sys2Proof.Machine

/-! ### The end of a whole frame -/
namespace Sys2Proof.Machine
open Sys2Proof.Stated

/-- The sums of bytes and of their complements are complementary. -/
theorem sum_complementBytes (bytes : Bytes) :
    ((complementBytes bytes).map BitVec.toNat).sum + (bytes.map BitVec.toNat).sum = 255 * bytes.length := by
  induction bytes with
  | nil => rfl
  | cons b bytes ih =>
    have hb := b.isLt
    have hnot : (~~~b).toNat = 255 - b.toNat := BitVec.toNat_not
    simp only [complementBytes, List.map_cons, List.sum_cons, List.length_cons] at ih ⊢
    omega

@[simp] theorem complementBytes_length (bytes : Bytes) : (complementBytes bytes).length = bytes.length := List.length_map ..

/-- The two sums of R122, for the bytes as captured and complemented (R126). -/
theorem byteSum_complementBytes (bytes : Bytes) :
    byteSum (complementBytes bytes) + byteSum bytes = 255 * (bytes.length - 1 - sumStart bytes.length) := by
  have h := sum_complementBytes (bytes.dropLast.drop (sumStart bytes.length))
  rw [List.length_drop, List.length_dropLast] at h
  have hsummed : complementBytes (bytes.dropLast.drop (sumStart bytes.length)) =
      (complementBytes bytes).dropLast.drop (sumStart bytes.length) := by
    rw [complementBytes, complementBytes, List.map_drop, List.map_dropLast]
  rw [← h, hsummed, byteSum, byteSum, complementBytes_length]

/-- A frame's checksum byte is the sum of R122. -/
theorem validSum_iff {bytes : Bytes} (hlen : legalLen bytes.length = true) :
    validSum bytes = true ↔ bytes.getLast? = some (BitVec.ofNat 8 (byteSum bytes % 256)) := by
  rw [validSum, csumOf, if_pos hlen, beq_iff_eq]

/-- No frame is valid in both polarities: `255` times the number of bytes summed is not `255` modulo 256 (R126). -/
theorem validSum_eq_false_of_complement {bytes : Bytes} (hlen : legalLen bytes.length = true)
    (h : validSum (complementBytes bytes) = true) : validSum bytes = false := by
  rw [← Bool.not_eq_true]
  intro hv
  rw [validSum_iff hlen] at hv
  rw [validSum_iff (by rwa [complementBytes_length]), complementBytes, List.getLast?_map, hv, Option.map_some,
    Option.some_inj, ← complementBytes] at h
  have hsum := byteSum_complementBytes bytes
  have hnat := congrArg BitVec.toNat h
  rw [BitVec.toNat_not, BitVec.toNat_ofNat, BitVec.toNat_ofNat] at hnat
  have hcases : bytes.length = 9 ∨ bytes.length = 12 := by simpa [legalLen] using hlen
  rcases hcases with hl | hl
  · rw [hl, sumStart, if_pos rfl] at hsum
    omega
  · rw [hl, sumStart, if_neg (by decide)] at hsum
    omega

theorem verdict_of_valid {bytes : Bytes} (h : validSum bytes = true) : verdict bytes = some (bytes, .controller) := if_pos h

theorem verdict_of_complement {bytes : Bytes} (hlen : legalLen bytes.length = true)
    (h : validSum (complementBytes bytes) = true) : verdict bytes = some (complementBytes bytes, .heater) := by
  simp [verdict, validSum_eq_false_of_complement hlen h, h]

theorem verdict_of_invalid {bytes : Bytes} (h : validSum bytes = false)
    (hc : validSum (complementBytes bytes) = false) : verdict bytes = none := by
  simp [verdict, h, hc]

theorem finalizeOp_with_dec (bytes : Bytes) (src : Source) (s : State) (d : Dec) :
    finalizeOp bytes src { s with dec := d } = { finalizeOp bytes src s with dec := d } := by
  rw [finalizeOp_eq, finalizeOp_eq]
  cases src <;> rfl

/-- The receiver after a frame has ended by a timeout: free, with the bytes still in the buffer (R97). -/
def freed (buf : Memory) : Dec := ⟨buf, 0, 0, 0, .idle, .phNone⟩

/-- `complete(timeout)` of a whole frame with a verdict (R106, R125, R128). -/
theorem completeOp_timeout_of_some {s : State} {d : Dec} {bytes : Bytes} {src : Source}
    (hw : wholeFrame { s with dec := d } = true) (hv : verdict (candidate { s with dec := d }) = some (bytes, src)) :
    completeOp .timeout { s with dec := d } = { finalizeOp bytes src s with dec := freed d.buf } := by
  have hv' : verdict (candidate { s with dec := { d with state := .complete } }) = some (bytes, src) := hv
  rw [completeOp, judgeFrame, if_pos hw, validateOp, hv', afterFrame]
  dsimp only
  rw [finalizeOp_with_dec]
  rfl

/-- `complete(timeout)` of a whole frame without one (R106, R125, R198). -/
theorem completeOp_timeout_of_none {s : State} {d : Dec} (hw : wholeFrame { s with dec := d } = true)
    (hv : verdict (candidate { s with dec := d }) = none) :
    completeOp .timeout { s with dec := d } =
      { raise (.checksum (candidate { s with dec := d })) s with dec := freed d.buf } := by
  have hv' : verdict (candidate { s with dec := { d with state := .complete } }) = none := hv
  rw [completeOp, judgeFrame, if_pos hw, validateOp, hv', afterFrame]
  rfl

theorem wholeFrame_filled {s : State} {d : Dec} {bytes : Bytes} (hlen : legalLen bytes.length = true) :
    wholeFrame { s with dec := filled d bytes } = true := by
  rw [wholeFrame, filled, hlen]
  rfl

theorem le_of_legalLen {n : Nat} (h : legalLen n = true) : n ≤ 12 := by
  simp only [legalLen, Bool.or_eq_true, beq_iff_eq] at h
  omega

/-- A frame in the buffer that has a verdict is finalized (R106, R128). -/
theorem completeOp_filled_of_some {s : State} {bytes bytes' : Bytes} {src : Source} (hb : Memory.wf s.dec.buf = true)
    (hlen : legalLen bytes.length = true) (hv : verdict bytes = some (bytes', src)) :
    completeOp .timeout { s with dec := filled s.dec bytes } =
      { finalizeOp bytes' src s with dec := freed (bufWriteAll s.dec.buf 0 bytes) } :=
  completeOp_timeout_of_some (wholeFrame_filled hlen) (by rwa [candidate_filled hb (le_of_legalLen hlen)])

/-- A frame in the buffer that has none is discarded (R106, R198). -/
theorem completeOp_filled_of_none {s : State} {bytes : Bytes} (hb : Memory.wf s.dec.buf = true)
    (hlen : legalLen bytes.length = true) (hv : verdict bytes = none) :
    completeOp .timeout { s with dec := filled s.dec bytes } =
      { raise (.checksum bytes) s with dec := freed (bufWriteAll s.dec.buf 0 bytes) } := by
  have hc := candidate_filled hb (le_of_legalLen hlen)
  have h := completeOp_timeout_of_none (s := s) (wholeFrame_filled hlen) (by rwa [hc])
  rwa [hc] at h

/-! #### A whole frame, fed as a row -/

theorem listening_of_resting {s : State} (h : Resting s) : Listening s := ⟨h.inv.cfg, h.receiving, h.drained⟩

/-- A frame fed to a receiver at rest fills the buffer, and its gap completes it (R68, R103). -/
theorem feedTrain_frameTrain {s : State} (h : Resting s) {bytes : Bytes} (hlen : bytes.length ≤ 12) :
    feedTrain (frameTrain s.cfg bytes) s = completeOp .timeout { s with dec := filled s.dec bytes } := by
  have hwf := h.inv.cfg
  have hrun := decRun_frame (longBit := s.cfg.longBit) h.idle hlen
  rw [← classify_frameSegments hwf] at hrun
  have hl : Listening { s with dec := filled s.dec bytes } := ⟨hwf, h.receiving, h.drained⟩
  rw [frameTrain_eq_pulses, feedTrain_append, (listening_of_resting h).feedTrain hrun, feedTrain_cons, hl.feedPulse,
    classify_gap hwf, decodeClass_idle_of_started (s := { s with dec := filled s.dec bytes }) rfl]
  rfl

/-- Settles O30: either row feeds the frame's train, which ends in `complete(timeout)` with the bytes in the buffer. -/
theorem wholeFrameIsReceived : Obligations.WholeFrameIsReceived := by
  unfold Obligations.WholeFrameIsReceived
  intro s bytes i h hi
  have hlen : legalLen bytes.length = true := by
    rcases hi with ⟨-, hl⟩ | ⟨-, hl⟩ <;> rw [hl] <;> rfl
  have hrow : exec i s = .next (completeOp .timeout { s with dec := filled s.dec bytes }) := by
    rw [← feedTrain_frameTrain h (le_of_legalLen hlen)]
    rcases hi with ⟨rfl, -⟩ | ⟨rfl, -⟩ <;> exact runTrain_of_pin h.pin _
  have hb := h.inv.dec.bufWf
  refine ⟨bufWriteAll s.dec.buf 0 bytes, fun hv => ?_, fun hv => ?_, fun hv hc => ?_⟩
  · rw [hrow, completeOp_filled_of_some hb hlen (verdict_of_valid hv)]
    rfl
  · rw [hrow, completeOp_filled_of_some hb hlen (verdict_of_complement hlen hv)]
    rfl
  · rw [hrow, completeOp_filled_of_none hb hlen (verdict_of_invalid hv hc)]
    rfl

end Sys2Proof.Machine

/-! ### The waveform as a list of segments -/
namespace Sys2Proof.Machine
open Sys2Proof.Stated

/-- The indices below `2 * m`, two by two. -/
theorem map_range_double {α : Type} (f : Nat → α) (m : Nat) :
    (List.range (2 * m)).map f = (List.range m).flatMap fun i => [f (2 * i), f (2 * i + 1)] := by
  induction m with
  | zero => rfl
  | succ m ih =>
    rw [Nat.mul_succ, List.range_succ, List.range_succ, List.range_succ, List.map_append, List.map_append, ih,
      List.flatMap_append, List.append_assoc]
    rfl

theorem frameBit_cons (b : Byte) (bytes : Bytes) (k : Nat) : frameBit (b :: bytes) (8 + k) = frameBit bytes k := by
  have hdiv : (8 + k) / 8 = k / 8 + 1 := by omega
  have hmod : (8 + k) % 8 = k % 8 := by omega
  rw [frameBit, frameBit, hdiv, hmod, List.getD_cons_succ]

/-- The bits in the order of the wire are those of R162. -/
theorem wireBits_eq_map_frameBit (bytes : Bytes) :
    wireBits bytes = (List.range (8 * bytes.length)).map (frameBit bytes) := by
  induction bytes with
  | nil => rfl
  | cons b bytes ih =>
    have hlen : 8 * (b :: bytes).length = 8 + 8 * bytes.length := by rw [List.length_cons]; omega
    have hshift : frameBit (b :: bytes) ∘ (8 + ·) = frameBit bytes := funext (frameBit_cons b bytes)
    rw [wireBits_cons, ih, hlen, List.range_add, List.map_append, List.map_map, hshift]
    rfl

/-- The two segments of a bit (R164). -/
theorem seg_of_bit (c : Cfg) {bytes : Bytes} {i : Nat} (h : i < 8 * bytes.length) :
    seg c bytes (2 + 2 * i) = (low, c.bitLo) ∧
    seg c bytes (2 + (2 * i + 1)) = (high, hiDur c (frameBit bytes i)) := by
  have hhalf : (2 + (2 * i + 1) - 2) / 2 = i := by omega
  constructor
  · rw [seg, if_neg (by omega), if_neg (by omega), if_pos (by omega), if_pos (by omega)]
  · rw [seg, if_neg (by omega), if_neg (by omega), if_pos (by omega), if_neg (by omega), hhalf]

/-- The last two segments of a repetition (R164). -/
theorem seg_of_spacing (c : Cfg) (bytes : Bytes) :
    seg c bytes (2 + 2 * (8 * bytes.length)) = (low, c.bitLo) ∧
    seg c bytes (2 + 2 * (8 * bytes.length) + 1) = (high, c.frameGap) := by
  constructor
  · rw [seg, if_neg (by omega), if_neg (by omega), if_neg (by omega), if_pos (by omega)]
  · rw [seg, if_neg (by omega), if_neg (by omega), if_neg (by omega), if_neg (by omega)]

/-- `waveform_once` is the segments of the frame and the gap (R164, R68). -/
theorem waveformOnce_eq (c : Cfg) (bytes : Bytes) :
    waveformOnce c bytes = frameSegments c (wireBits bytes) ++ [(high, c.frameGap)] := by
  have hlen : lastSeg bytes + 1 = 2 + 2 * (8 * bytes.length) + 1 + 1 := by rw [lastSeg]; omega
  have hbits : (List.range (2 * (8 * bytes.length))).map (fun k => seg c bytes (2 + k)) =
      (wireBits bytes).flatMap fun v => [(low, c.bitLo), (high, hiDur c v)] := by
    rw [map_range_double, wireBits_eq_map_frameBit, List.flatMap_map]
    refine List.flatMap_congr fun i hi => ?_
    obtain ⟨hlo, hhi⟩ := seg_of_bit c (List.mem_range.mp hi)
    rw [hlo, hhi]
  obtain ⟨hterm, hgap⟩ := seg_of_spacing c bytes
  rw [waveformOnce, hlen, List.range_succ, List.range_succ, List.range_add, List.map_append, List.map_append,
    List.map_append, List.map_map, List.map_singleton, List.map_singleton, hterm, hgap, frameSegments]
  exact congrArg (fun l => _ ++ l ++ _ ++ _) hbits

/-- The levels of a frame's segments alternate, from a high line on, and so does a high level after them. -/
theorem isChain_frameSegments (c : Cfg) (vs : List Bool) (d : Nat) :
    List.IsChain (· ≠ ·) (high :: (frameSegments c vs ++ [(high, d)]).map Prod.fst) := by
  have hbits : List.IsChain (· ≠ ·)
      (high :: (vs.flatMap (fun v => [(low, c.bitLo), (high, hiDur c v)]) ++ [(low, c.bitLo), (high, d)]).map
        Prod.fst) := by
    induction vs with
    | nil => simp
    | cons v vs ih => simpa using ih
  simpa [frameSegments] using hbits

/-- Every segment of a frame lasts (R5). -/
theorem frameSegments_pos {c : Cfg} (h : cfgWf c = true) (vs : List Bool) {g : Level × Nat}
    (hg : g ∈ frameSegments c vs) : 0 < g.2 := by
  have w := cfgWf_parts h
  have hhi (v : Bool) : 0 < hiDur c v := by
    unfold hiDur
    split <;> omega
  simp only [frameSegments, List.mem_append, List.mem_cons, List.not_mem_nil, or_false, List.mem_flatMap] at hg
  rcases hg with ((rfl | rfl) | ⟨v, -, rfl | rfl⟩) | rfl
  · dsimp only; omega
  · dsimp only; omega
  · dsimp only; omega
  · exact hhi v
  · dsimp only; omega

end Sys2Proof.Machine

/-! ### A receiver on a driven line -/
namespace Sys2Proof.Machine
open Sys2Proof.Stated

/-- A receiver with nothing queued on a line it does not drive, whose last transition it has captured (R31, R80). -/
structure OnLine (s : State) : Prop where
  listening : Listening s
  pin : s.cfg.pinConfigured = true
  input : s.line.dir = .input
  level : s.line.level = s.line.ext
  captured : s.cap.lastLevel = s.line.ext

/-- The pulse that is elapsing on the line, as a transition now would capture it (R81). -/
def elapsing (s : State) : Pulse := ⟨s.cap.lastLevel, sat32 (s.now - s.cap.lastEdge)⟩

/-- The line after `n` captured transitions, the last to `lv` at `edge`, when the time is `now`. -/
def lineMoved (lv : Level) (edge now n : Nat) (s : State) : State := { s with
  cap := ⟨lv, edge⟩
  line := { s.line with ext := lv, level := lv }
  now := now
  out := { s.out with wakes := s.out.wakes + n } }

theorem OnLine.lineMoved {s : State} (h : OnLine s) (lv : Level) (edge now n : Nat) (d : Dec) :
    OnLine (lineMoved lv edge now n { s with dec := d }) where
  listening := ⟨h.listening.wf, h.listening.receiving, h.listening.drained⟩
  pin := h.pin
  input := h.input
  level := rfl
  captured := rfl

/-- Transitions add up, whatever the decoder does in between. -/
theorem lineMoved_lineMoved (s : State) (lv lv' : Level) (edge edge' now now' n m : Nat) (d e : Dec) :
    lineMoved lv' edge' now' m { lineMoved lv edge now n { s with dec := d } with dec := e } =
      lineMoved lv' edge' now' (n + m) { s with dec := e } := by
  simp only [lineMoved, Nat.add_assoc]

theorem elapsing_lineMoved (s : State) (g : Level × Nat) (t n : Nat) :
    elapsing (lineMoved g.1 t (t + g.2) n s) = pulseOf g := by
  change Pulse.mk g.1 (sat32 (t + g.2 - t)) = _
  rw [Nat.add_sub_cancel_left]
  rfl

/-- Another level is captured, and `PQ` holds the pulse that elapsed (R80, R81, R82). -/
theorem OnLine.exec_envLine {s : State} (h : OnLine s) {lv : Level} (hlv : s.line.ext ≠ lv) :
    exec (.envLine lv) s = .next { Machine.lineMoved lv s.now s.now 1 s with pq := [elapsing s] } := by
  obtain ⟨hdepth, -, -⟩ := depths_pos h.listening.wf
  have hline : (relevel { s with line := { s.line with ext := lv } }).line = { s.line with ext := lv, level := lv } := by
    simp [relevel, h.input]
  have henq : enqList s.cfg.pqDepth s.pq (elapsing s) = [elapsing s] := by
    rw [h.listening.drained, enqList_of_room _ (by rw [List.length_nil]; omega), List.nil_append]
  have hdrop : dropEvents .pq { s with line := { s.line with ext := lv } } = [] := by
    have hroom : s.pq.length ≠ s.cfg.pqDepth := by rw [h.listening.drained, List.length_nil]; omega
    simp [dropEvents_pq, evicted, hroom]
  change execEnvLine lv s = _
  rw [execEnvLine, if_neg hlv.symm, settleLine_of_edge, hline, hdrop, List.append_nil]
  · exact congrArg (fun q => Host.Outcome.next { Machine.lineMoved lv s.now s.now 1 s with pq := q }) henq
  · rw [hline, h.level]
    exact hlv.symm
  · rw [hline, h.captured]
    exact hlv.symm
  · exact h.pin

/-- The one pulse queued is decoded (R96). -/
theorem exec_rxPulse_of_single {s : State} (hm : s.arb.mode = .receiving) (p : Pulse) :
    exec .rxPulse { s with pq := [p] } = .next (decodeClass (classify s.cfg p) { s with pq := [] }) := by
  have hrx : isTransmitting { s with pq := [] } = false := isTransmitting_eq_false.mpr hm
  change Host.Outcome.next (receivePulse p { s with pq := [] }) = _
  rw [receivePulse, hrx]
  rfl

theorem exec_tick_of_receiving {s : State} {d : Nat} (hm : s.arb.mode = .receiving) (hd : 0 < d)
    (ht : s.now + d ≤ timeMax) : exec (.tick d) s = .next { s with now := s.now + d } := by
  change execTick d s = _
  rw [execTick, if_pos (by simp [tickEnabled, isReceiving, hm, hd]), if_pos ht]

/-- One segment: the transition is captured, the pulse it ended is decoded, and time passes (R80, R82, R83, R96). -/
theorem OnLine.runAll_segment {s : State} (h : OnLine s) {lv : Level} {d : Nat} {e : Dec} (hlv : s.line.ext ≠ lv)
    (hd : 0 < d) (ht : s.now + d ≤ timeMax)
    (hstep : DecStep s.cfg.longBit (classify s.cfg (elapsing s)) s.dec e) (is : List Instr) :
    runAll (.envLine lv :: .rxPulse :: .tick d :: is) s =
      runAll is (Machine.lineMoved lv s.now (s.now + d) 1 { s with dec := e }) := by
  have hmoved : { Machine.lineMoved lv s.now s.now 1 s with pq := [] } = Machine.lineMoved lv s.now s.now 1 s := by
    rw [← h.listening.drained]
    rfl
  have hdecode : decodeClass (classify s.cfg (elapsing s)) (Machine.lineMoved lv s.now s.now 1 s) =
      { Machine.lineMoved lv s.now s.now 1 s with dec := e } := DecStep.decodeClass hstep
  have hrx := exec_rxPulse_of_single (s := Machine.lineMoved lv s.now s.now 1 s) h.listening.receiving (elapsing s)
  rw [hmoved] at hrx
  have htick := exec_tick_of_receiving (s := { Machine.lineMoved lv s.now s.now 1 s with dec := e })
    h.listening.receiving hd ht
  rw [runAll_cons (h.exec_envLine hlv), runAll_cons (hrx.trans (congrArg _ hdecode)), runAll_cons htick]
  rfl

/-- Segments driven by another talker: every pulse but the last is decoded, the last is elapsing (R80, R82, R96). -/
theorem OnLine.runAll_driven {s : State} (h : OnLine s) {gs : List (Level × Nat)} {lv : Level} {d : Nat} {e : Dec}
    (hlv : List.IsChain (· ≠ ·) (s.line.ext :: (gs ++ [(lv, d)]).map Prod.fst))
    (hpos : ∀ g ∈ gs ++ [(lv, d)], 0 < g.2) (ht : s.now + (gs.map Prod.snd).sum + d ≤ timeMax)
    (hrun : DecRun s.cfg.longBit ((elapsing s :: gs.map pulseOf).map (classify s.cfg)) s.dec e) :
    runAll (driven (gs ++ [(lv, d)])) s =
      .next (Machine.lineMoved lv (s.now + (gs.map Prod.snd).sum) (s.now + (gs.map Prod.snd).sum + d) (gs.length + 1)
        { s with dec := e }) := by
  induction gs generalizing s with
  | nil =>
    rcases hrun with _ | ⟨hstep, hnil⟩
    cases hnil
    exact h.runAll_segment (List.isChain_cons_cons.mp hlv).1 (hpos _ (List.mem_singleton_self _)) ht hstep []
  | cons g gs ih =>
    cases hrun with
    | @cons _ _ _ e' _ hstep hrest =>
      obtain ⟨hne, hchain⟩ := List.isChain_cons_cons.mp hlv
      rw [List.map_cons, List.sum_cons, ← Nat.add_assoc] at ht ⊢
      have hnext := ih (h.lineMoved g.1 s.now (s.now + g.2) 1 e') hchain
        (fun x hx => hpos x (List.mem_cons_of_mem g hx)) ht (by rw [elapsing_lineMoved]; exact hrest)
      rw [lineMoved_lineMoved, Nat.add_comm 1] at hnext
      exact (h.runAll_segment hne (hpos g List.mem_cons_self) (by omega) hstep _).trans hnext

/-- A receiver at rest watches the line (R20, R30, R80). -/
theorem onLine_of_resting {s : State} (h : Resting s) : OnLine s :=
  have hline := h.inv.line
  have hin := hline.receiving_input h.receiving
  have hlevel := hline.level_input hin
  ⟨listening_of_resting h, h.pin, hin, hlevel, (hline.captured h.pin).trans hlevel⟩

/-- A high pulse is no start marker's low half. -/
theorem classify_high_ne_startLo (c : Cfg) (d : Duration) : classify c ⟨high, d⟩ ≠ .startLo := by
  rw [classify_high]
  split_ifs <;> decide

/-- The pulses that end while a frame is driven to a receiver at rest on a high line: the one that was elapsing, which is
ignored, and the frame's up to its terminator (R68, R98, R114). -/
theorem decRun_frameSegments {s : State} (h : Resting s) (hext : s.line.ext = high) {bytes : Bytes}
    (hlen : bytes.length ≤ 12) :
    DecRun s.cfg.longBit ((elapsing s :: (frameSegments s.cfg (wireBits bytes)).map pulseOf).map (classify s.cfg)) s.dec
      (filled s.dec bytes) := by
  have hne : classify s.cfg (elapsing s) ≠ .startLo := by
    rw [elapsing, (onLine_of_resting h).captured, hext]
    exact classify_high_ne_startLo _ _
  rw [List.map_cons, classify_frameSegments h.inv.cfg]
  exact .cons (.ignored h.idle h.phase hne) (decRun_frame h.idle hlen)

/-- A frame driven on a high line, the line left high for the idle timeout: its bytes are in the buffer and the line is as
it was (R68, R80, R82, R96). -/
theorem runAll_driven_frame {s : State} (h : Resting s) (hext : s.line.ext = high) {bytes : Bytes}
    (hlen : bytes.length ≤ 12) (ht : s.now + durOnce s.cfg bytes ≤ timeMax) :
    ∃ n edge, edge + s.cfg.frameGap = s.now + durOnce s.cfg bytes ∧
      runAll (driven ((waveformOnce s.cfg bytes).dropLast ++ [(high, s.cfg.idleTimeout)])) s =
        .next (lineMoved high edge (edge + s.cfg.idleTimeout) n { s with dec := filled s.dec bytes }) := by
  have w := cfgWf_parts h.inv.cfg
  have hdur : durOnce s.cfg bytes =
      ((frameSegments s.cfg (wireBits bytes)).map Prod.snd).sum + s.cfg.frameGap := by
    rw [durOnce, waveformOnce_eq, List.map_append, List.sum_append, List.map_singleton, List.sum_singleton]
  have hpos : ∀ g ∈ frameSegments s.cfg (wireBits bytes) ++ [(high, s.cfg.idleTimeout)], 0 < g.2 := by
    intro g hg
    rcases List.mem_append.mp hg with hg | hg
    · exact frameSegments_pos h.inv.cfg _ hg
    · rw [List.mem_singleton.mp hg]
      dsimp only
      omega
  rw [waveformOnce_eq, List.dropLast_concat]
  refine ⟨_, _, ?_, (onLine_of_resting h).runAll_driven ?_ hpos ?_ (decRun_frameSegments h hext hlen)⟩
  · omega
  · rw [hext]
    exact isChain_frameSegments _ _ _
  · omega

/-- `RX_TIMEOUT` once the line has been unchanged for the idle timeout (R111). -/
theorem exec_rxTimeout_of_idle {s : State} (hm : s.arb.mode = .receiving) (hs : s.dec.state = .started) (hq : s.pq = [])
    (ht : s.cfg.idleTimeout ≤ s.now - s.cap.lastEdge) : exec .rxTimeout s = .next (completeOp .timeout s) :=
  if_pos (by simp [timeoutEnabled, isReceiving, started, hm, hs, hq, ht])

/-- A line left at the level it had. -/
theorem lineMoved_line {s : State} (hi : s.line.level = s.line.ext) (edge now n : Nat) :
    (lineMoved s.line.ext edge now n s).line = s.line :=
  congrArg (fun lv => { s.line with level := lv }) hi.symm

/-- Settles O31: the driven frame is in the buffer when the line has been high for the idle timeout, and `RX_TIMEOUT`
completes it. -/
theorem frameOnTheLineIsReceived : Obligations.FrameOnTheLineIsReceived := by
  unfold Obligations.FrameOnTheLineIsReceived
  intro s bytes h hext hlen hv ht
  obtain ⟨n, edge, hedge, hrun⟩ := runAll_driven_frame h hext (le_of_legalLen hlen) ht
  have hprogram : driven (waveformOnce s.cfg bytes).dropLast ++
      [.envLine high, .rxPulse, .tick s.cfg.idleTimeout, .rxTimeout] =
      driven ((waveformOnce s.cfg bytes).dropLast ++ [(high, s.cfg.idleTimeout)]) ++ [.rxTimeout] := by
    rw [driven, driven, List.flatMap_append, List.append_assoc]
    rfl
  have hline : (lineMoved high edge (edge + s.cfg.idleTimeout) n s).line = s.line := by
    rw [← hext]
    exact lineMoved_line (onLine_of_resting h).level _ _ _
  have htimeout := exec_rxTimeout_of_idle
    (s := lineMoved high edge (edge + s.cfg.idleTimeout) n { s with dec := filled s.dec bytes }) h.receiving rfl h.drained
    (Nat.le_of_eq (Nat.add_sub_cancel_left ..).symm)
  have hcomplete := completeOp_filled_of_some (s := lineMoved high edge (edge + s.cfg.idleTimeout) n s)
    h.inv.dec.bufWf hlen (verdict_of_valid hv)
  rw [finalizeOp_eq, dropEvents_rxq] at hcomplete
  rw [hprogram, runAll_append hrun]
  refine ⟨_, runAll_cons (htimeout.trans (congrArg _ hcomplete)), ?_, rfl, rfl, rfl, h.drained, rfl, hline, rfl, rfl, rfl,
    rfl, rfl⟩
  change edge + s.cfg.idleTimeout + s.cfg.frameGap = _
  omega

end Sys2Proof.Machine

/-! ## Proofs: 40_pulse_capture.md -/

/-! ### The rows of ENV and CAP -/
namespace Sys2Proof.Machine
open Sys2Proof.Stated

/-- Another level imposed on the wire is written, and the line settles (R82). -/
theorem exec_envLine_of_ne {v : Level} {s : State} (hv : v ≠ s.line.ext) :
    exec (.envLine v) s = .next (settleLine { s with line := { s.line with ext := v } }) := if_neg hv

/-- A line the block reads takes the level imposed on it (R31). -/
theorem relevel_imposed_line {s : State} (hd : s.line.dir = .input) (v : Level) :
    (relevel { s with line := { s.line with ext := v } }).line = { s.line with ext := v, level := v } := by
  simp [relevel, hd]

/-- A queue with room evicts nothing (R44). -/
theorem dropEvents_pq_of_room {s : State} (h : s.pq.length < s.cfg.pqDepth) : dropEvents .pq s = [] :=
  if_neg (by simp [queueFull_pq_eq_false, h.ne])

/-- Settles O8: the level imposed differs from the line's and from the captured one, so the line settles by an edge; with no
pin it settles without one. -/
theorem envLine : Obligations.EnvLine := by
  unfold Obligations.EnvLine
  refine fun v s hv => ⟨exec_envLine_of_ne hv, fun hd hlevel hcap hp hroom => ?_, fun hd hp => ?_⟩
  · have hline := relevel_imposed_line hd v
    have hmoved : v ≠ s.line.level := hlevel ▸ hv
    have hdrop : dropEvents .pq { s with line := { s.line with ext := v } } = [] := dropEvents_pq_of_room hroom
    rw [exec_envLine_of_ne hv, settleLine_of_edge, hline, hdrop, List.append_nil, enqList_of_room _ hroom.ne]
    · rwa [hline]
    · rwa [hline, hcap]
    · exact hp
  · rw [exec_envLine_of_ne hv, settleLine_of_no_edge, relevel_imposed_line hd]
    rintro ⟨-, -, hpin⟩
    exact Bool.false_ne_true (hp.symm.trans hpin)

theorem tickEnabled_of_within_segment {dt : Nat} {s : State} (hdt : 0 < dt)
    (h : s.arb.mode = .transmitting → s.now + dt ≤ s.seq.deadline) : tickEnabled dt s = true := by
  cases hm : s.arb.mode with
  | receiving => simp [tickEnabled, isReceiving, hm, hdt]
  | transmitting => simp [tickEnabled, hdt, h hm]

/-- A tick that may run moves time, or is refused beyond the counter's range (R6, R83, U2). -/
theorem exec_tick_of_enabled {dt : Nat} {s : State} (h : tickEnabled dt s = true) :
    exec (.tick dt) s =
      if s.now + dt ≤ timeMax then .next { s with now := s.now + dt } else .refused .timeBeyondRange := if_pos h

/-- Settles O9: a tick within the segment is enabled and decided by the counter's range; one past the segment boundary
waits. -/
theorem tick : Obligations.Tick := by
  unfold Obligations.Tick
  refine fun dt s hdt => ⟨fun hseg => ?_, fun hm hpast t ht => ?_⟩
  · have hexec := exec_tick_of_enabled (tickEnabled_of_within_segment hdt hseg)
    exact ⟨fun hle => hexec.trans (if_pos hle), fun hgt => hexec.trans (if_neg (Nat.not_le.mpr hgt))⟩
  · rw [exec_tick_waits (tickEnabled_past_deadline hm hpast)] at ht
    cases ht
    rfl

/-- Settles O10: `EDGE` is enabled and captures the transition. -/
theorem edge : Obligations.Edge := by
  unfold Obligations.Edge
  intro s hp hlevel
  have hen : edgeEnabled s = true := by simp [edgeEnabled, hp, hlevel]
  calc exec .edge s
    _ = .next (capture s) := if_pos hen
    _ = _ := by rw [capture_eq, dropEvents_pq]

end Sys2Proof.Machine

/-! ## Proofs: 41_decoder.md -/

/-! ### The windows of the classifier, in any order -/
namespace Sys2Proof.Machine

/-- The targets of the windows of one level (R63, R94). -/
def windowTargets (c : Cfg) (lv : Level) : List Nat :=
  if lv = low then [c.bitLo, c.startLo] else [c.shortHi, c.longHi, c.startHi]

theorem mem_windowTargets_low {c : Cfg} {target : Nat} :
    target ∈ windowTargets c low ↔ target = c.bitLo ∨ target = c.startLo := by simp [windowTargets]

theorem mem_windowTargets_high {c : Cfg} {target : Nat} :
    target ∈ windowTargets c high ↔ target = c.shortHi ∨ target = c.longHi ∨ target = c.startHi := by
  simp [windowTargets]

/-- The duration lies in the closed window around a target (R94). -/
def InWindow (c : Cfg) (p : Pulse) (target : Nat) : Prop :=
  target - c.tol ≤ p.duration.toNat ∧ p.duration.toNat ≤ target + c.tol

/-- What a class says of a pulse, with no order among the classes (R94, R95). -/
def ClassHolds (c : Cfg) (p : Pulse) : PulseClass → Prop
  | .idle => c.idleTimeout ≤ p.duration.toNat
  | .bitLo => p.level = low ∧ InWindow c p c.bitLo
  | .startLo => p.level = low ∧ InWindow c p c.startLo
  | .bitShort => p.level = high ∧ InWindow c p c.shortHi
  | .bitLong => p.level = high ∧ InWindow c p c.longHi
  | .startHi => p.level = high ∧ InWindow c p c.startHi
  | .invalid => p.duration.toNat < c.idleTimeout ∧ ∀ target ∈ windowTargets c p.level,
      p.duration.toNat < target - c.tol ∨ target + c.tol < p.duration.toNat

theorem classify_of_low {c : Cfg} {p : Pulse} (h : p.level = low) :
    classify c p =
      if c.idleTimeout ≤ p.duration.toNat then .idle
      else if within c p.duration.toNat c.bitLo then .bitLo
      else if within c p.duration.toNat c.startLo then .startLo
      else .invalid := by
  rw [← classify_low, ← h]

theorem classify_of_high {c : Cfg} {p : Pulse} (h : p.level = high) :
    classify c p =
      if c.idleTimeout ≤ p.duration.toNat then .idle
      else if within c p.duration.toNat c.shortHi then .bitShort
      else if within c p.duration.toNat c.longHi then .bitLong
      else if within c p.duration.toNat c.startHi then .startHi
      else .invalid := by
  rw [← classify_high, ← h]

/-- The class the tests of R94 arrive at holds of the pulse. -/
theorem classHolds_classify (c : Cfg) (p : Pulse) : ClassHolds c p (classify c p) := by
  cases hlv : p.level with
  | false =>
    rw [classify_of_low hlv]
    simp only [within_iff]
    split_ifs with hidle hbit hstart
    · exact hidle
    · exact ⟨hlv, hbit⟩
    · exact ⟨hlv, hstart⟩
    · refine ⟨Nat.not_le.mp hidle, fun target ht => ?_⟩
      rw [hlv, mem_windowTargets_low] at ht
      rcases ht with rfl | rfl <;> omega
  | true =>
    rw [classify_of_high hlv]
    simp only [within_iff]
    split_ifs with hidle hshort hlong hstart
    · exact hidle
    · exact ⟨hlv, hshort⟩
    · exact ⟨hlv, hlong⟩
    · exact ⟨hlv, hstart⟩
    · refine ⟨Nat.not_le.mp hidle, fun target ht => ?_⟩
      rw [hlv, mem_windowTargets_high] at ht
      rcases ht with rfl | rfl | rfl <;> omega

/-- At most one class holds of a pulse: the windows of a level are disjoint and below the idle threshold (R5). -/
theorem classify_of_classHolds {c : Cfg} {p : Pulse} (h : cfgWf c = true) {k : PulseClass} (hk : ClassHolds c p k) :
    classify c p = k := by
  have w := cfgWf_parts h
  cases k with
  | idle => exact classify_idle hk
  | bitLo =>
    obtain ⟨hlv, hlo, hhi⟩ := hk
    rw [classify_of_low hlv, if_neg (by omega), if_pos (within_iff.mpr ⟨hlo, hhi⟩)]
  | startLo =>
    obtain ⟨hlv, hlo, hhi⟩ := hk
    rw [classify_of_low hlv, if_neg (by omega), if_neg (by rw [within_iff]; omega), if_pos (within_iff.mpr ⟨hlo, hhi⟩)]
  | bitShort =>
    obtain ⟨hlv, hlo, hhi⟩ := hk
    rw [classify_of_high hlv, if_neg (by omega), if_pos (within_iff.mpr ⟨hlo, hhi⟩)]
  | bitLong =>
    obtain ⟨hlv, hlo, hhi⟩ := hk
    rw [classify_of_high hlv, if_neg (by omega), if_neg (by rw [within_iff]; omega), if_pos (within_iff.mpr ⟨hlo, hhi⟩)]
  | startHi =>
    obtain ⟨hlv, hlo, hhi⟩ := hk
    rw [classify_of_high hlv, if_neg (by omega), if_neg (by rw [within_iff]; omega),
      if_neg (by rw [within_iff]; omega), if_pos (within_iff.mpr ⟨hlo, hhi⟩)]
  | invalid =>
    obtain ⟨hidle, hout⟩ := hk
    have hnot : ∀ target ∈ windowTargets c p.level, ¬ within c p.duration.toNat target = true := by
      intro target ht
      rw [within_iff]
      have := hout target ht
      omega
    rw [← Nat.not_le] at hidle
    cases hlv : p.level with
    | false =>
      simp only [hlv, mem_windowTargets_low, forall_eq_or_imp, forall_eq] at hnot
      obtain ⟨hbit, hstart⟩ := hnot
      rw [classify_of_low hlv, if_neg hidle, if_neg hbit, if_neg hstart]
    | true =>
      simp only [hlv, mem_windowTargets_high, forall_eq_or_imp, forall_eq] at hnot
      obtain ⟨hshort, hlong, hstart⟩ := hnot
      rw [classify_of_high hlv, if_neg hidle, if_neg hshort, if_neg hlong, if_neg hstart]

/-- The classifier gives the one class that holds of the pulse. -/
theorem classify_eq_iff {c : Cfg} (h : cfgWf c = true) (p : Pulse) (k : PulseClass) :
    classify c p = k ↔ ClassHolds c p k :=
  ⟨fun hk => hk ▸ classHolds_classify c p, classify_of_classHolds h⟩

/-- A duration one microsecond outside a window is in no window of the level, where those are more than one apart
(R95 (c)). -/
theorem outside_of_beside {c : Cfg} {lv : Level} {d target other : Nat} (h : cfgWf c = true)
    (hlow : c.bitLo + c.tol + 1 < c.startLo - c.tol) (hshort : c.shortHi + c.tol + 1 < c.longHi - c.tol)
    (hlong : c.longHi + c.tol + 1 < c.startHi - c.tol) (ht : target ∈ windowTargets c lv)
    (ho : other ∈ windowTargets c lv) (hd : d + c.tol + 1 = target ∨ d = target + c.tol + 1) :
    d < other - c.tol ∨ other + c.tol < d := by
  have w := cfgWf_parts h
  cases lv with
  | false =>
    rw [mem_windowTargets_low] at ht ho
    omega
  | true =>
    rw [mem_windowTargets_high] at ht ho
    omega

/-- Settles O5: a class is given exactly where it holds, whatever the order of the tests, and a duration beside a window
is in no window of its level. -/
theorem classifierWindows : Obligations.ClassifierWindows := by
  unfold Obligations.ClassifierWindows
  intro c p h
  have hiff := classify_eq_iff h p
  refine ⟨hiff .idle, hiff .bitLo, hiff .startLo, hiff .bitShort, hiff .bitLong, hiff .startHi, hiff .invalid, ?_⟩
  intro hlow hshort hlong target ht hd hidle
  exact (hiff .invalid).mpr ⟨hidle, fun other ho => outside_of_beside h hlow hshort hlong ht ho hd⟩

end Sys2Proof.Machine

/-! ### The helpers, and the rows of a frame in flight -/
namespace Sys2Proof.Machine
open Sys2Proof.Stated

/-- Settles O15: each helper is its record update. -/
theorem helpersWriteTheseRegisters : Obligations.HelpersWriteTheseRegisters := by
  unfold Obligations.HelpersWriteTheseRegisters
  exact fun s => ⟨rfl, rfl, fun _ => rfl, fun _ => rfl⟩

/-- The decoder's helper rows and `E_NOISE` run their operation for a frame in flight (R104, R106, R107, R197; log 11). -/
theorem exec_inFlightRows {s : State} (h : inFlight s = true) :
    (∀ v, exec (.pushBit v) s = .next (pushBitOp v s)) ∧
    (∀ cause, exec (.complete cause) s = .next (completeOp cause s)) ∧
    ∀ c, exec (.noise c) s = .next (noiseOp c s) ∧ exec (.eNoise c) s = .next (noiseOp c s) :=
  ⟨fun _ => if_pos h, fun _ => if_pos h, fun _ => ⟨if_pos h, if_pos h⟩⟩

theorem exec_complete_of_inFlight {s : State} (hm : s.arb.mode = .receiving) (hs : s.dec.state = .started)
    (cause : EndCause) : exec (.complete cause) s = .next (completeOp cause s) :=
  (exec_inFlightRows (inFlight_iff.mpr ⟨hm, hs⟩)).2.1 cause

/-- Settles O25: `noise` logs the event and frees the decoder, for either row. -/
theorem noise : Obligations.Noise := by
  unfold Obligations.Noise
  intro c s hm hs
  obtain ⟨-, -, hnoise⟩ := exec_inFlightRows (inFlight_iff.mpr ⟨hm, hs⟩)
  exact hnoise c

/-- The enabling conditions of `RX_TIMEOUT` (R111). -/
theorem timeoutEnabled_iff {s : State} :
    timeoutEnabled s = true ↔ s.arb.mode = .receiving ∧ s.dec.state = .started ∧ s.pq = [] ∧
      s.cfg.idleTimeout ≤ s.now - s.cap.lastEdge := by
  simp [timeoutEnabled, isReceiving, started, and_assoc]

/-- Settles O21: `RX_TIMEOUT` and `COMPLETE` run the same operation. -/
theorem rxTimeout : Obligations.RxTimeout := by
  unfold Obligations.RxTimeout
  refine fun s => ⟨timeoutEnabled_iff, fun hm hs hq ht => ?_⟩
  have hrow := exec_rxTimeout_of_idle hm hs hq ht
  exact ⟨hrow, hrow.trans (exec_complete_of_inFlight hm hs .timeout).symm⟩

/-! #### One bit -/

/-- A shift from below doubles the byte and adds the bit (R104). -/
theorem shiftConcat_eq_add (cur : Byte) (v : Bool) : cur.shiftConcat v = 2 * cur + (if v then 1 else 0) := by
  apply BitVec.eq_of_toNat_eq
  rw [BitVec.toNat_shiftConcat, Nat.shiftLeft_eq]
  cases v <;> simp [BitVec.toNat_add, BitVec.toNat_mul, Nat.mul_comm]

/-- Settles O22: the bit overflows, is shifted in, or completes a byte that is written at `DEC.nbytes`. -/
theorem pushBit : Obligations.PushBit := by
  unfold Obligations.PushBit
  intro v s hm hs
  have hin : inFlight s = true := inFlight_iff.mpr ⟨hm, hs⟩
  obtain ⟨hpush, -, -⟩ := exec_inFlightRows hin
  refine ⟨fun hfull => ?_, fun hroom hbits => ?_, fun hroom hbits hwf => ?_⟩
  · rw [hpush, pushBitOp, bufSize, if_pos hfull]
  · rw [exec_pushBit_of_room v hin hroom, shiftBit_of_partial v hbits, shiftConcat_eq_add]
  · refine ⟨bufWrite s.dec.buf s.dec.nbytes (2 * s.dec.cur + if v then 1 else 0), ?_, bufWrite_wf _ _ hwf,
      fun j => bufRead_bufWrite hwf hroom⟩
    rw [exec_pushBit_of_room v hin hroom.ne, shiftBit_of_eighth v hbits, shiftConcat_eq_add]

/-! #### The end of a frame -/

/-- What follows a frame's end does not see that `complete` passed through another state (R106, R108). -/
theorem afterFrame_with_state (cause : EndCause) (st : DecState) (s : State) :
    afterFrame cause { s with dec := { s.dec with state := st } } = afterFrame cause s := by
  cases cause <;> rfl

/-- A whole frame with a verdict is finalized (R106, R125, R128). -/
theorem completeOp_of_some {s : State} {bytes : Bytes} {src : Source} (cause : EndCause) (hw : wholeFrame s = true)
    (hv : verdict (candidate s) = some (bytes, src)) :
    completeOp cause s = afterFrame cause (finalizeOp bytes src s) := by
  have hv' : verdict (candidate { s with dec := { s.dec with state := .complete } }) = some (bytes, src) := hv
  have hafter := afterFrame_with_state cause .complete (finalizeOp bytes src s)
  rw [finalizeOp_dec, ← finalizeOp_with_dec] at hafter
  rw [completeOp, judgeFrame, if_pos hw, validateOp, hv']
  exact hafter

/-- A whole frame without one is discarded (R106, R125, R198). -/
theorem completeOp_of_none {s : State} (cause : EndCause) (hw : wholeFrame s = true)
    (hv : verdict (candidate s) = none) :
    completeOp cause s = afterFrame cause (raise (.checksum (candidate s)) s) := by
  have hv' : verdict (candidate { s with dec := { s.dec with state := .complete } }) = none := hv
  rw [completeOp, judgeFrame, if_pos hw, validateOp, hv']
  exact afterFrame_with_state cause .complete (raise (.checksum (candidate s)) s)

/-- Any other frame is discarded unvalidated (R106, R199). -/
theorem completeOp_of_not_whole {s : State} (cause : EndCause) (hw : ¬ wholeFrame s = true) :
    completeOp cause s = afterFrame cause (raise (.length s.dec.nbytes s.dec.nbits) s) := by
  rw [completeOp, judgeFrame, if_neg hw]

/-- Settles O24: `complete` by the frame's length and by the verdict on its bytes. -/
theorem complete : Obligations.Complete := by
  unfold Obligations.Complete
  intro cause s hm hs after bytes
  have hrow := exec_complete_of_inFlight hm hs cause
  have hafter : after = afterFrame cause := by
    funext t
    cases cause <;> rfl
  rw [hrow, hafter]
  refine ⟨fun hlen hbits => ?_, fun hother => ?_⟩
  · have hw : wholeFrame s = true := wholeFrame_iff.mpr ⟨hlen, hbits⟩
    have hlegal : legalLen bytes.length = true := by simpa [bytes, candidate, legalLen] using hlen
    exact ⟨fun hv => congrArg _ (completeOp_of_some cause hw (verdict_of_valid hv)),
      fun _ hc => congrArg _ (completeOp_of_some cause hw (verdict_of_complement hlegal hc)),
      fun hv hc => congrArg _ (completeOp_of_none cause hw (verdict_of_invalid hv hc))⟩
  · exact congrArg _ (completeOp_of_not_whole cause (mt wholeFrame_iff.mp hother))

end Sys2Proof.Machine

/-! ### The pulse rows -/
namespace Sys2Proof.Machine
open Sys2Proof.Stated

/-- While Receiving with a pin bound, each pulse row runs the decoder operation of its class (R96). -/
theorem exec_pulseRows {s : State} (hm : s.arb.mode = .receiving) (hp : s.cfg.pinConfigured = true) (p : Pulse) :
    exec (.decStartLo p) s = .next (decodeClass .startLo s) ∧ exec (.decStartHi p) s = .next (decodeClass .startHi s) ∧
    exec (.decBitLo p) s = .next (decodeClass .bitLo s) ∧ exec (.decBitShort p) s = .next (decodeClass .bitShort s) ∧
    exec (.decBitLong p) s = .next (decodeClass .bitLong s) ∧ exec (.decIdle p) s = .next (decodeClass .idle s) ∧
    exec (.decInvalid p) s = .next (decodeClass .invalid s) := by
  have hrun (op : State → State) : runDecoder op s = .next (op s) := if_pos (by simp [isReceiving, hm, hp])
  exact ⟨hrun _, hrun _, hrun _, hrun _, hrun _, hrun _, hrun _⟩

/-! #### What a class does to the decoder -/

/-- The classes that the decoder goes on with in Started, by its phase (R98 to R103). -/
inductive Awaited : Phase → PulseClass → Prop where
  | startLo : Awaited .phNone .startLo
  | bitLo : Awaited .phNone .bitLo
  | startHi : Awaited .phStartLow .startHi
  | bitShort : Awaited .phBitLow .bitShort
  | bitLong : Awaited .phBitLow .bitLong
  | idle (ph : Phase) : Awaited ph .idle

theorem not_awaited_invalid (ph : Phase) : ¬ Awaited ph .invalid := nofun

/-- In Idle every class but the two halves of a start marker clears the phase (R98 to R103, R110). -/
theorem decodeClass_of_idle {s : State} {k : PulseClass} (hs : s.dec.state = .idle) (hlo : k ≠ .startLo)
    (hhi : k = .startHi → s.dec.phase ≠ .phStartLow) : decodeClass k s = setPhase .phNone s := by
  cases k with
  | startLo => exact absurd rfl hlo
  | startHi => simp [decodeClass, decStartHiOp, hs, hhi rfl]
  | bitLo => exact if_pos hs
  | bitShort => exact if_pos hs
  | bitLong => exact if_pos hs
  | idle => exact if_pos hs
  | invalid => exact if_pos hs

/-- In Started every class not awaited is noise (R98 to R102, R110). -/
theorem decodeClass_noise {s : State} {k : PulseClass} {ph : Phase} (hs : s.dec.state = .started)
    (hph : s.dec.phase = ph) (hk : ¬ Awaited ph k) :
    decodeClass k s = resetIdle (raise (.noise k ph) s) := by
  subst hph
  cases k with
  | startLo =>
    have hne : s.dec.phase ≠ .phNone := fun h => hk (h ▸ .startLo)
    simp [decodeClass, decStartLoOp, noiseOp, hs, hne]
  | startHi =>
    have hne : s.dec.phase ≠ .phStartLow := fun h => hk (h ▸ .startHi)
    simp [decodeClass, decStartHiOp, noiseOp, hs, hne]
  | bitLo =>
    have hne : s.dec.phase ≠ .phNone := fun h => hk (h ▸ .bitLo)
    simp [decodeClass, decBitLoOp, noiseOp, hs, hne]
  | bitShort =>
    have hne : s.dec.phase ≠ .phBitLow := fun h => hk (h ▸ .bitShort)
    simp [decodeClass, decBitShortOp, noiseOp, hs, hne]
  | bitLong =>
    have hne : s.dec.phase ≠ .phBitLow := fun h => hk (h ▸ .bitLong)
    simp [decodeClass, decBitLongOp, noiseOp, hs, hne]
  | idle => exact absurd (.idle _) hk
  | invalid => simp [decodeClass, decInvalidOp, noiseOp, hs]

/-- Settles O16: the marker's halves are awaited in turn, and any other phase of a frame makes them noise. -/
theorem decodeStartMarker : Obligations.DecodeStartMarker := by
  unfold Obligations.DecodeStartMarker
  intro p s hm hp
  obtain ⟨hlo, hhi, -⟩ := exec_pulseRows hm hp p
  rw [hlo, hhi]
  refine ⟨fun hs => ?_, fun hs => ?_, fun hs => ?_, fun hs => ?_⟩
  · exact congrArg _ (decodeClass_startLo_of_idle hs)
  · cases hph : s.dec.phase with
    | phNone => exact congrArg _ (decodeClass_startLo_of_started hs hph)
    | phStartLow => exact congrArg _ (decodeClass_noise hs hph nofun)
    | phBitLow => exact congrArg _ (decodeClass_noise hs hph nofun)
  · cases hph : s.dec.phase with
    | phNone => exact congrArg _ (decodeClass_of_idle hs nofun (by simp [hph]))
    | phStartLow => exact congrArg _ (decodeClass_startHi_of_idle hs hph)
    | phBitLow => exact congrArg _ (decodeClass_of_idle hs nofun (by simp [hph]))
  · cases hph : s.dec.phase with
    | phNone => exact congrArg _ (decodeClass_noise hs hph nofun)
    | phStartLow => rw [decodeClass_startHi_of_started hs hph, exec_complete_of_inFlight hm hs]
    | phBitLow => exact congrArg _ (decodeClass_noise hs hph nofun)

/-- Settles O17: the low half of a bit is awaited first, then either high half, which pushes its bit. -/
theorem decodeBit : Obligations.DecodeBit := by
  unfold Obligations.DecodeBit
  intro p s hm hp
  obtain ⟨-, -, hlo, hshort, hlong, -⟩ := exec_pulseRows hm hp p
  rw [hlo, hshort, hlong]
  refine ⟨fun hs => ?_, fun hs hph => ?_, fun hs hph => ?_, fun hs hph => ?_⟩
  · exact ⟨congrArg _ (decodeClass_of_idle hs nofun nofun), congrArg _ (decodeClass_of_idle hs nofun nofun),
      congrArg _ (decodeClass_of_idle hs nofun nofun)⟩
  · exact ⟨congrArg _ (decodeClass_bitLo_of_started hs hph), congrArg _ (decodeClass_noise hs hph nofun),
      congrArg _ (decodeClass_noise hs hph nofun)⟩
  · exact ⟨congrArg _ (decodeClass_noise hs hph nofun), congrArg _ (decodeClass_bitShort_of_started hs hph),
      congrArg _ (decodeClass_bitLong_of_started hs hph)⟩
  · exact ⟨congrArg _ (decodeClass_noise hs hph nofun), congrArg _ (decodeClass_noise hs hph nofun),
      congrArg _ (decodeClass_noise hs hph nofun)⟩

/-- Settles O18: an idle gap ends the frame in flight, and an `INVALID` pulse is awaited in no phase. -/
theorem decodeIdleAndInvalid : Obligations.DecodeIdleAndInvalid := by
  unfold Obligations.DecodeIdleAndInvalid
  intro p s hm hp
  obtain ⟨-, -, -, -, -, hidle, hinvalid⟩ := exec_pulseRows hm hp p
  rw [hidle, hinvalid]
  refine ⟨fun hs => ?_, fun hs => ?_⟩
  · exact ⟨congrArg _ (decodeClass_of_idle hs nofun nofun), congrArg _ (decodeClass_of_idle hs nofun nofun)⟩
  · rw [decodeClass_idle_of_started hs, exec_complete_of_inFlight hm hs]
    exact ⟨rfl, rfl, congrArg _ (decodeClass_noise hs rfl (not_awaited_invalid _))⟩

/-- The oldest pulse is taken and handed to the decoder (R96). -/
theorem exec_rxPulse_cons {s : State} {p : Pulse} {rest : List Pulse} (h : s.pq = p :: rest) :
    exec .rxPulse s = .next (receivePulse p { s with pq := rest }) := by
  change execRxPulse s = _
  rw [execRxPulse, rxPulseOp, h]
  rfl

theorem exec_rxPulse_of_receiving {s : State} {p : Pulse} {rest : List Pulse} (h : s.pq = p :: rest)
    (hm : s.arb.mode = .receiving) :
    exec .rxPulse s = .next (decodeClass (classify s.cfg p) { s with pq := rest }) := by
  have hnot : isTransmitting { s with pq := rest } = false := isTransmitting_eq_false.mpr hm
  rw [exec_rxPulse_cons h, receivePulse, hnot]
  rfl

/-- The row of a pulse's class runs the decoder operation of that class (R94, R96). -/
theorem exec_instrOfPulse {s : State} (hm : s.arb.mode = .receiving) (hp : s.cfg.pinConfigured = true) (c : Cfg)
    (p : Pulse) : exec (instrOfPulse c p) s = .next (decodeClass (classify c p) s) := by
  obtain ⟨hstartLo, hstartHi, hbitLo, hshort, hlong, hidle, hinvalid⟩ := exec_pulseRows hm hp p
  unfold instrOfPulse
  cases classify c p with
  | startLo => exact hstartLo
  | startHi => exact hstartHi
  | bitLo => exact hbitLo
  | bitShort => exact hshort
  | bitLong => exact hlong
  | idle => exact hidle
  | invalid => exact hinvalid

/-- Settles O19: the pulse taken is discarded, or decoded as the row of its class decodes it. -/
theorem rxPulse : Obligations.RxPulse := by
  unfold Obligations.RxPulse
  refine fun s p rest hq => ⟨fun hm => ?_, fun hm => ?_⟩
  · have hblind : isTransmitting { s with pq := rest } = true := isTransmitting_iff.mpr hm
    rw [exec_rxPulse_cons hq, receivePulse_of_transmitting hblind]
  · have hrx := exec_rxPulse_of_receiving hq hm
    refine ⟨hrx, fun hp => hrx.trans ?_⟩
    exact (exec_instrOfPulse (s := { s with pq := rest }) hm hp s.cfg p).symm

end Sys2Proof.Machine

/-! ### The transition table -/
namespace Sys2Proof.Machine
open Sys2Proof.Stated

@[simp] theorem shiftBit_state (v : Bool) (d : Dec) : (shiftBit v d).state = d.state := by
  unfold shiftBit
  split <;> rfl

/-- In Idle every class but the two halves of a start marker leads to rest (R112). -/
theorem nextDecoder_ignored {ph : Phase} {k : PulseClass} (hlo : k ≠ .startLo)
    (hhi : ¬ (k = .startHi ∧ ph = .phStartLow)) (full : Bool) : nextDecoder full .idle ph k = (.idle, .phNone) := by
  cases k with
  | startLo => exact absurd rfl hlo
  | startHi => cases ph with
    | phStartLow => exact absurd ⟨rfl, rfl⟩ hhi
    | phNone => rfl
    | phBitLow => rfl
  | bitLo => cases ph <;> rfl
  | bitShort => cases ph <;> rfl
  | bitLong => cases ph <;> rfl
  | idle => cases ph <;> rfl
  | invalid => cases ph <;> rfl

/-- In Started a class not awaited leaves the frame (R112). -/
theorem nextDecoder_noise {full : Bool} : ∀ {ph : Phase} {k : PulseClass}, ¬ Awaited ph k →
    nextDecoder full .started ph k = (.idle, .phNone)
  | .phNone, .startLo, hk => absurd .startLo hk
  | .phNone, .bitLo, hk => absurd .bitLo hk
  | .phStartLow, .startHi, hk => absurd .startHi hk
  | .phBitLow, .bitShort, hk => absurd .bitShort hk
  | .phBitLow, .bitLong, hk => absurd .bitLong hk
  | ph, .idle, hk => absurd (.idle ph) hk
  | .phNone, .startHi, _ | .phNone, .bitShort, _ | .phNone, .bitLong, _ | .phNone, .invalid, _ => rfl
  | .phStartLow, .startLo, _ | .phStartLow, .bitLo, _ | .phStartLow, .bitShort, _ | .phStartLow, .bitLong, _
  | .phStartLow, .invalid, _ => rfl
  | .phBitLow, .startLo, _ | .phBitLow, .startHi, _ | .phBitLow, .bitLo, _ | .phBitLow, .invalid, _ => rfl

/-- The state and phase after a pushed bit: in the frame, or Idle after an overflow (R104, R105). -/
theorem setPhase_pushBitOp_moves {s : State} (v : Bool) (hs : s.dec.state = .started) :
    ((setPhase .phNone (pushBitOp v s)).dec.state, (setPhase .phNone (pushBitOp v s)).dec.phase) =
      if decide (s.dec.nbytes = 12) then (.idle, .phNone) else (.started, .phNone) := by
  rcases pushBitOp_cases v s with ⟨hfull, h⟩ | ⟨hroom, h⟩
  · rw [bufSize] at hfull
    simp [h, hfull]
  · rw [bufSize] at hroom
    simp [h, hroom, hs]

/-- The decoder operation of a class moves the state and the phase as the table says (R112). -/
theorem decodeClass_moves (k : PulseClass) {s : State} (hne : s.dec.state ≠ .complete) :
    ((decodeClass k s).dec.state, (decodeClass k s).dec.phase) =
      nextDecoder (decide (s.dec.nbytes = 12)) s.dec.state s.dec.phase k := by
  cases hs : s.dec.state with
  | complete => exact absurd hs hne
  | idle =>
    by_cases hlo : k = .startLo
    · subst hlo
      rw [decodeClass_startLo_of_idle hs]
      simp [hs, nextDecoder]
    · by_cases hhi : k = .startHi ∧ s.dec.phase = .phStartLow
      · obtain ⟨rfl, hph⟩ := hhi
        rw [decodeClass_startHi_of_idle hs hph, hph]
        rfl
      · rw [decodeClass_of_idle hs hlo fun hk hph => hhi ⟨hk, hph⟩, nextDecoder_ignored hlo hhi]
        simp [hs]
  | started =>
    by_cases hk : Awaited s.dec.phase k
    · generalize hph : s.dec.phase = ph at hk
      cases hk with
      | startLo =>
        rw [decodeClass_startLo_of_started hs hph]
        simp [hs, nextDecoder]
      | bitLo =>
        rw [decodeClass_bitLo_of_started hs hph]
        simp [hs, nextDecoder]
      | startHi =>
        rw [decodeClass_startHi_of_started hs hph, completeOp_dec]
        rfl
      | bitShort => rw [decodeClass_bitShort_of_started hs hph, setPhase_pushBitOp_moves _ hs, nextDecoder]
      | bitLong => rw [decodeClass_bitLong_of_started hs hph, setPhase_pushBitOp_moves _ hs, nextDecoder]
      | idle =>
        rw [decodeClass_idle_of_started hs, completeOp_dec]
        cases ph <;> rfl
    · rw [decodeClass_noise hs rfl hk, nextDecoder_noise hk]
      rfl

/-- Settles O20: `RX_PULSE` is the operation of the pulse's class, and `RX_TIMEOUT` the end of the frame. -/
theorem decoderTransitionTable : Obligations.DecoderTransitionTable := by
  unfold Obligations.DecoderTransitionTable
  refine fun s hm hne => ⟨fun p rest hq => ?_, fun hs hq ht => ?_, fun hs => ?_⟩
  · exact ⟨_, exec_rxPulse_of_receiving hq hm,
      decodeClass_moves (classify s.cfg p) (s := { s with pq := rest }) hne⟩
  · refine ⟨_, exec_rxTimeout_of_idle hm hs hq ht, ?_⟩
    rw [completeOp_dec]
  · simp [timeoutEnabled, started, hs]

end Sys2Proof.Machine

/-! ### A train of pulses -/
namespace Sys2Proof.Machine
open Sys2Proof.Stated

/-- The pulses of a frame up to its terminator, by the segments of its waveform (R68, R73). -/
theorem train_eq_pulses (c : Cfg) (bytes : Bytes) :
    startSymbol c ++ bytes.flatMap (byteTrain c) ++ [lowPulse c.bitLo] =
      (frameSegments c (wireBits bytes)).map pulseOf := by
  apply List.append_cancel_right (bs := [highPulse c.frameGap])
  rw [← frameTrain_eq_pulses, frameTrain, List.append_assoc]
  rfl

theorem bufRead_bufWriteAll {m : Memory} {bytes : Bytes} {i : Nat} (h : Memory.wf m = true)
    (hlen : bytes.length ≤ bufSize) (hi : i < bytes.length) :
    bufRead (bufWriteAll m 0 bytes) i = bytes.getD i 0 := by
  have htake := bufTake_bufWriteAll (n := 0) h (by rwa [Nat.zero_add])
  rw [Nat.zero_add] at htake
  have hget := congrArg (fun l => l.getD i 0) htake
  simpa [bufTake, hi] using hget

/-- A gap fed to a receiver with a frame in flight completes it (R73, R103). -/
theorem Listening.runAll_fed_gap {s : State} (hl : Listening s) (hp : s.cfg.pinConfigured = true)
    (hs : s.dec.state = .started) {gap : Pulse} (hgap : classify s.cfg gap = .idle) :
    runAll (fed [gap]) s = .next (completeOp .timeout s) := by
  rw [runAll_fed hp, feedTrain_cons, hl.feedPulse, hgap, decodeClass_idle_of_started hs]
  rfl

/-- Settles O27: the classes alone decide what the decoder does, so every train of a frame's classes fills the buffer. -/
theorem trainFillsTheBuffer : Obligations.TrainFillsTheBuffer := by
  unfold Obligations.TrainFillsTheBuffer
  intro s bytes h hlegal
  have hlen := le_of_legalLen hlegal
  refine ⟨fun ps hps => ⟨bufWriteAll s.dec.buf 0 bytes, ?_, ?_, ?_, ?_⟩, ?_⟩
  · rw [runAll_fed h.pin, (listening_of_resting h).feedTrain (hps ▸ decRun_frame h.idle hlen)]
    rfl
  · exact fun i hi => bufRead_bufWriteAll h.inv.dec.bufWf hlen hi
  · have hl : Listening { s with dec := filled s.dec bytes } := ⟨h.inv.cfg, h.receiving, h.drained⟩
    exact fun gap hgap => hl.runAll_fed_gap h.pin rfl hgap
  · exact exec_rxTimeout_of_idle (s := { s with dec := filled s.dec bytes }) h.receiving rfl h.drained
  · rw [train_eq_pulses, classify_frameSegments h.inv.cfg]

end Sys2Proof.Machine

/-! ## Proofs: 42_validator.md -/

/-! ### The checksum engine -/
namespace Sys2Proof.Machine

theorem legalLen_iff {n : Nat} : legalLen n = true ↔ n = 9 ∨ n = 12 := by simp [legalLen]

theorem not_legalLen {n : Nat} (h9 : n ≠ 9) (h12 : n ≠ 12) : ¬ legalLen n = true :=
  fun h => (legalLen_iff.mp h).elim h9 h12

theorem lenClassOf_of_other {n : Nat} (h9 : n ≠ 9) (h12 : n ≠ 12) : lenClassOf n = Config.freeLenClass n := by
  rw [lenClassOf, if_neg h9, if_neg h12]

theorem csumOf_of_other {bytes : Bytes} (h9 : bytes.length ≠ 9) (h12 : bytes.length ≠ 12) :
    csumOf bytes = Config.freeCsum bytes :=
  if_neg (not_legalLen h9 h12)

/-- Settles O33: the class of each length, and the two free values. -/
theorem lengthClass : Obligations.LengthClass := by
  unfold Obligations.LengthClass
  refine fun s => ⟨rfl, rfl, fun n h9 h12 => ?_, fun bytes h9 h12 => ?_⟩
  · rw [← lenClassOf_of_other h9 h12]
    rfl
  · rw [← csumOf_of_other h9 h12]
    rfl

/-- The exact sum modulo 256 is the sum in bytes (R122). -/
theorem ofNat_sum_toNat (bytes : Bytes) : BitVec.ofNat 8 ((bytes.map BitVec.toNat).sum % 256) = bytes.sum := by
  induction bytes with
  | nil => rfl
  | cons b bytes ih =>
    have hmod : ((bytes.map BitVec.toNat).sum % 256) = bytes.sum.toNat := by
      rw [← ih, BitVec.toNat_ofNat]
      omega
    apply BitVec.eq_of_toNat_eq
    rw [List.map_cons, List.sum_cons, List.sum_cons, BitVec.toNat_ofNat, BitVec.toNat_add, ← hmod]
    omega

/-- `CSUM` adds the bytes from `start(n)` to the last but one, as bytes (R122). -/
theorem csumOf_eq_sum {bytes : Bytes} (h : legalLen bytes.length = true) :
    csumOf bytes = (bytes.dropLast.drop (sumStart bytes.length)).sum := by
  rw [csumOf, if_pos h, byteSum, ofNat_sum_toNat]

/-- `HOST_CSUM` answers as `CSUM` does, for the lengths at which it is not refused (R186). -/
theorem exec_hostCsum_of_legal {bytes : Bytes} (h : legalLen bytes.length = true) (s : State) :
    exec (.hostCsum bytes) s = exec (.csum bytes) s := if_pos h

theorem exec_csum (bytes : Bytes) (s : State) : exec (.csum bytes) s = .next (answer (.byte (csumOf bytes)) s) := rfl

/-- Settles O34: the bytes summed are those of R122, and the host's row is `CSUM` or refused. -/
theorem checksum : Obligations.Checksum := by
  unfold Obligations.Checksum
  refine fun s => ⟨fun b0 b1 b2 b3 b4 b5 b6 b7 b8 b9 b10 b11 => ?_, fun bytes h9 h12 => if_neg (not_legalLen h9 h12)⟩
  intro long short answered
  have hlong : csumOf long = b0 + b1 + b2 + b3 + b4 + b5 + b6 + b7 + b8 + b9 + b10 := by
    rw [csumOf_eq_sum rfl]
    simp [long, sumStart, BitVec.add_assoc]
  have hshort : csumOf short = b1 + b2 + b3 + b4 + b5 + b6 + b7 := by
    rw [csumOf_eq_sum rfl]
    simp [short, sumStart, BitVec.add_assoc]
  refine ⟨?_, ?_, exec_hostCsum_of_legal rfl s, exec_hostCsum_of_legal rfl s⟩
  · rw [exec_csum, hlong]
    rfl
  · rw [exec_csum, hshort]
    rfl

/-- Settles O35: `validSum_eq_false_of_complement`, whose arithmetic is that no number of summed bytes times 255 is 255
modulo 256. -/
theorem neverValidInBothPolarities : Obligations.NeverValidInBothPolarities := by
  unfold Obligations.NeverValidInBothPolarities
  intro bytes hlen ⟨hvalid, hcomplement⟩
  have hinvalid := validSum_eq_false_of_complement (legalLen_iff.mpr hlen) hcomplement
  exact Bool.false_ne_true (hinvalid.symm.trans hvalid)

@[simp] theorem complementBytes_complementBytes (bytes : Bytes) : complementBytes (complementBytes bytes) = bytes := by
  simp [complementBytes, Function.comp_def]

/-- Settles O36: the heater's frame is the case of the complement, read for the bytes it sends. -/
theorem eitherPolarityIsRecovered : Obligations.EitherPolarityIsRecovered := by
  unfold Obligations.EitherPolarityIsRecovered
  intro m hm
  have hlen : legalLen m.length = true := legalLen_iff.mpr hm
  refine ⟨verdict_of_valid, verdict_of_complement hlen, verdict_of_invalid, fun hv => ?_⟩
  have hsent : verdict (complementBytes m) = some (complementBytes (complementBytes m), .heater) :=
    verdict_of_complement (by rwa [complementBytes_length]) (by rwa [complementBytes_complementBytes])
  rwa [complementBytes_complementBytes] at hsent

/-- The last byte is not summed, so replacing it leaves the checksum as it was (R122). -/
theorem csumOf_replaceLast {bytes : Bytes} (h : legalLen bytes.length = true) (b : Byte) :
    csumOf (bytes.dropLast ++ [b]) = csumOf bytes := by
  have hlen : (bytes.dropLast ++ [b]).length = bytes.length := by
    rw [List.length_append, List.length_dropLast, List.length_singleton]
    have hcases := legalLen_iff.mp h
    omega
  rw [csumOf_eq_sum (by rwa [hlen]), csumOf_eq_sum h, List.dropLast_concat, hlen]

/-- Settles O37: the checksum is that of the bytes it completes. -/
theorem checksumMakesAFrameValid : Obligations.ChecksumMakesAFrameValid := by
  unfold Obligations.ChecksumMakesAFrameValid
  intro bytes hlen
  rw [validSum, csumOf_replaceLast (legalLen_iff.mpr hlen), List.getLast?_concat]
  exact beq_self_eq_true _

end Sys2Proof.Machine

/-! ### The validator's rows -/
namespace Sys2Proof.Machine
open Sys2Proof.Stated

theorem candidate_length (s : State) : (candidate s).length = s.dec.nbytes := bufTake_length ..

/-- `VALIDATE` of bytes with a verdict finalizes them (R125, R127). -/
theorem validateOp_of_some {s : State} {bytes : Bytes} {src : Source} (h : verdict (candidate s) = some (bytes, src)) :
    validateOp s = finalizeOp bytes src s := by
  rw [validateOp, h]

/-- `VALIDATE` of bytes without one logs the error (R125, R198). -/
theorem validateOp_of_none {s : State} (h : verdict (candidate s) = none) :
    validateOp s = raise (.checksum (candidate s)) s := by
  rw [validateOp, h]

theorem exec_validate_of_whole {s : State} (hs : s.dec.state = .complete) (hw : wholeFrame s = true) :
    exec .validate s = .next (validateOp s) := if_pos ⟨hs, hw⟩

/-- Settles O38: the row runs `VALIDATE`, which goes by the verdict on the candidate frame. -/
theorem validate : Obligations.Validate := by
  unfold Obligations.Validate
  intro s hs hlen hbits bytes
  have hlegal : legalLen bytes.length = true := by
    rwa [legalLen_iff, candidate_length]
  rw [exec_validate_of_whole hs (wholeFrame_iff.mpr ⟨hlen, hbits⟩)]
  exact ⟨fun hv => congrArg _ (validateOp_of_some (verdict_of_valid hv)),
    fun _ hc => congrArg _ (validateOp_of_some (verdict_of_complement hlegal hc)),
    fun hv hc => congrArg _ (validateOp_of_none (verdict_of_invalid hv hc))⟩

/-- `FINALIZE` runs for a valid frame of a talker, with a pin bound (R128, R85). -/
theorem exec_finalize_of_valid {bytes : Bytes} {src : Source} {s : State} (hlen : legalLen bytes.length = true)
    (hv : validSum bytes = true) (hp : s.cfg.pinConfigured = true) (hsrc : src = .heater ∨ src = .controller) :
    exec (.finalize bytes src) s = .next (finalizeOp bytes src s) := by
  have hok : receivedOk ⟨bytes, src, s.now⟩ = true := by simp [receivedOk, hlen, hv, hsrc]
  exact if_pos (by rw [hok, hp]; rfl)

/-- `FINALIZE` logs the eviction, if any, and then the frame (R44, R128). -/
theorem finalizeOp_eq_evicted (bytes : Bytes) (src : Source) (s : State) :
    finalizeOp bytes src s = { s with
      arb := (frameSeen src s).arb
      rxq := enqList s.cfg.rxqDepth s.rxq ⟨bytes, src, s.now⟩
      out := { s.out with log := s.out.log ++ (evicted .rxq (decide (s.rxq.length = s.cfg.rxqDepth)) s.now ++
        [⟨.frameOk src bytes.length, s.now⟩]) } } := by
  rw [finalizeOp_eq, dropEvents_rxq, List.append_assoc]

/-- Settles O39: `finalizeOp_eq_evicted` for each of the two talkers. -/
theorem finalize : Obligations.Finalize := by
  unfold Obligations.Finalize
  intro bytes s hlen hv hp f lines
  have hcontroller := exec_finalize_of_valid hlen hv hp (.inr rfl)
  have hheater := exec_finalize_of_valid hlen hv hp (.inl rfl)
  exact ⟨hcontroller.trans (congrArg _ (finalizeOp_eq_evicted bytes .controller s)),
    hheater.trans (congrArg _ (finalizeOp_eq_evicted bytes .heater s)), hcontroller, hheater⟩

end Sys2Proof.Machine

/-! ## Proofs: 43_arbiter.md -/

/-! ### The receive side -/
namespace Sys2Proof.Machine

theorem exec_arbFrameSeen_of_pin {s : State} (h : s.cfg.pinConfigured = true) (src : Source) :
    exec (.arbFrameSeen src) s = .next (frameSeen src s) := if_pos h

/-- Settles O40: the row writes what `frameSeen` writes for each source. -/
theorem arbFrameSeen : Obligations.ArbFrameSeen := by
  unfold Obligations.ArbFrameSeen
  exact fun s hp => ⟨exec_arbFrameSeen_of_pin hp .controller, exec_arbFrameSeen_of_pin hp .heater,
    exec_arbFrameSeen_of_pin hp .loc, exec_arbFrameSeen_of_pin hp .unknown⟩

end Sys2Proof.Machine

/-! ### The transmission precondition

The predicates of R138 to R141 as propositions. The window is open where the budget or the absence holds. -/
namespace Sys2Proof.Machine

theorem noFrameInProgress_iff {s : State} : noFrameInProgress s = true ↔ s.dec.state ≠ .started := bne_iff_ne

theorem spacingOk_iff {s : State} :
    spacingOk s = true ↔ ∀ t, s.arb.lastLocalTx = some t → s.cfg.minCmdSpacing ≤ s.now - t := by
  cases h : s.arb.lastLocalTx <;> simp [spacingOk, h]

theorem budgetOk_iff {s : State} :
    budgetOk s = true ↔ ∃ t, s.arb.lastSeenController = some t ∧
      s.now + s.cfg.repeatCount * s.cfg.worstFrame < t + s.cfg.controllerPeriod := by
  cases h : s.arb.lastSeenController <;> simp [budgetOk, h]

theorem controllerAbsent_iff {s : State} :
    controllerAbsent s = true ↔
      (∃ t, s.arb.lastSeenController = some t ∧ s.cfg.controllerPeriod < s.now - t) ∨
      (s.arb.lastSeenController = none ∧ s.cfg.controllerPeriod < s.now - s.arb.tReset) := by
  cases h : s.arb.lastSeenController <;> simp [controllerAbsent, h]

theorem txAllowed_iff {s : State} :
    txAllowed s = true ↔ s.dec.state ≠ .started ∧ spacingOk s = true ∧ (budgetOk s = true ∨ controllerAbsent s = true) := by
  rw [txAllowed, Bool.and_eq_true, Bool.and_eq_true, Bool.or_eq_true, noFrameInProgress_iff, and_assoc]

/-- The controller is absent only after the period in which the budget can hold (R141). -/
theorem not_budgetOk_and_controllerAbsent (s : State) : ¬ (budgetOk s = true ∧ controllerAbsent s = true) := by
  rw [budgetOk_iff, controllerAbsent_iff]
  rintro ⟨⟨t, hseen, hbudget⟩, ⟨t', hseen', habsent⟩ | ⟨hnone, -⟩⟩
  · obtain rfl : t = t' := Option.some.inj (hseen.symm.trans hseen')
    omega
  · exact Option.some_ne_none t (hseen.symm.trans hnone)

/-- Settles O41: the three conditions, each by its own equivalence. -/
theorem transmissionPrecondition : Obligations.TransmissionPrecondition := by
  unfold Obligations.TransmissionPrecondition
  refine fun s => ⟨?_, budgetOk_iff, not_budgetOk_and_controllerAbsent s⟩
  rw [txAllowed_iff, spacingOk_iff, budgetOk_iff, controllerAbsent_iff]

/-- After a controller frame at `t` the window is open before the guard window and after it (R142). -/
theorem window_of_seen {s : State} {t : Nat} (h : s.arb.lastSeenController = some t) :
    (budgetOk s || controllerAbsent s) = true ↔
      s.now + s.cfg.repeatCount * s.cfg.worstFrame < t + s.cfg.controllerPeriod ∨
        s.cfg.controllerPeriod < s.now - t := by
  simp [budgetOk_iff, controllerAbsent_iff, h]

/-- With no controller frame seen the window opens one period after reset (R141). -/
theorem window_of_unseen {s : State} (h : s.arb.lastSeenController = none) :
    (budgetOk s || controllerAbsent s) = true ↔ s.cfg.controllerPeriod < s.now - s.arb.tReset := by
  simp [budgetOk_iff, controllerAbsent_iff, h]

end Sys2Proof.Machine

/-! ### The scheduling pass -/
namespace Sys2Proof.Machine

theorem exec_txSched_of_command {s : State} {c : RawFrame} {rest : List RawFrame} (hm : s.arb.mode = .receiving)
    (hq : s.txq = c :: rest) : exec .txSched s = .next (schedPass c s) := by
  change execTxSched s = _
  simp [execTxSched, isReceiving, hm, hq]

theorem dropHead_txq_of_cons {s : State} {c : RawFrame} {rest : List RawFrame} (h : s.txq = c :: rest) :
    dropHead .txq s = { s with txq := rest } := by simp [dropHead, h]

theorem starvedEvent_eq (s : State) :
    starvedEvent s =
      .starved (decide (s.dec.state = .started)) (!spacingOk s) (!(budgetOk s || controllerAbsent s)) := by
  cases h : s.dec.state <;> simp [starvedEvent, noFrameInProgress, h]

theorem schedPass_of_no_pin {s : State} (c : RawFrame) (hp : s.cfg.pinConfigured = false) :
    schedPass c s = raise (.cmdDropped c) (dropHead .txq s) := if_pos hp

theorem schedPass_of_passive {s : State} (c : RawFrame) (hp : s.cfg.pinConfigured = true) (ha : s.arb.passive = true) :
    schedPass c s = s := by simp [schedPass, hp, ha]

theorem schedPass_of_not_allowed {s : State} (c : RawFrame) (hp : s.cfg.pinConfigured = true)
    (ha : s.arb.passive = false) (h : txAllowed s = false) : schedPass c s = raise (starvedEvent s) s := by
  simp [schedPass, hp, ha, h]

theorem schedPass_of_allowed {s : State} (c : RawFrame) (hp : s.cfg.pinConfigured = true)
    (ha : s.arb.passive = false) (h : txAllowed s = true) : schedPass c s = txBeginOp c (dropHead .txq s) := by
  simp [schedPass, hp, ha, h]

/-- Settles O42: the four branches of the pass, the head of `TXQ` being the command. -/
theorem txSched : Obligations.TxSched := by
  unfold Obligations.TxSched
  intro s c rest hm hq
  rw [exec_txSched_of_command hm hq, ← starvedEvent_eq]
  refine ⟨fun hp => ?_, fun hp ha => ?_, fun hp ha hn => ?_, fun hp ha hallowed => ?_⟩
  · rw [schedPass_of_no_pin c hp, dropHead_txq_of_cons hq]
    rfl
  · rw [schedPass_of_passive c hp ha]
  · rw [schedPass_of_not_allowed c hp ha hn]
    rfl
  · rw [schedPass_of_allowed c hp ha hallowed, dropHead_txq_of_cons hq]

/-- Where the window is shut a pass defers its command and logs that it is (R143, R201). -/
theorem exec_txSched_of_no_window {s : State} {c : RawFrame} {rest : List RawFrame} (hm : s.arb.mode = .receiving)
    (hq : s.txq = c :: rest) (hp : s.cfg.pinConfigured = true) (ha : s.arb.passive = false)
    (hw : ¬ (budgetOk s || controllerAbsent s) = true) :
    exec .txSched s =
      .next (raise (.starved (decide (s.dec.state = .started)) (!spacingOk s) true) s) := by
  have hclosed : (budgetOk s || controllerAbsent s) = false := Bool.eq_false_of_not_eq_true hw
  have hdeferred : txAllowed s = false := by rw [txAllowed, hclosed, Bool.and_false]
  rw [exec_txSched_of_command hm hq, schedPass_of_not_allowed c hp ha hdeferred, starvedEvent_eq, hclosed]
  rfl

/-- Settles O43: the window is shut exactly on the guard interval, and where it is shut a pass defers. -/
theorem guardWindow : Obligations.GuardWindow := by
  unfold Obligations.GuardWindow
  intro s c rest hm hq hp ha x p deferred
  have hdefer (hw : ¬ (budgetOk s || controllerAbsent s) = true) : exec .txSched s = .next deferred :=
    exec_txSched_of_no_window hm hq hp ha hw
  refine ⟨fun t hseen _ => ?_, fun hnone hfirst => hdefer ?_⟩
  · have hwindow : (budgetOk s || controllerAbsent s) = true ↔ s.now + x < t + p ∨ p < s.now - t := window_of_seen hseen
    refine ⟨fun hfrom hto => hdefer ?_, fun hopen => ?_⟩
    · rw [hwindow]
      omega
    · rw [hwindow]
      omega
  · rw [window_of_unseen hnone]
    omega

end Sys2Proof.Machine

/-! ## Proofs: 44_transmitter.md -/

/-! ### The duration of the waveform -/
namespace Sys2Proof.Machine
open Sys2Proof.Stated

theorem waveformOnce_length (c : Cfg) (bytes : Bytes) : (waveformOnce c bytes).length = 16 * bytes.length + 4 := by
  rw [waveformOnce, List.length_map, List.length_range, lastSeg]

/-- The repetitions follow one another (R164). -/
theorem txWaveform_eq_replicate (c : Cfg) (bytes : Bytes) (n : Nat) :
    txWaveform c bytes n = (List.replicate n (waveformOnce c bytes)).flatten := by
  induction n with
  | zero => rfl
  | succ n ih => rw [txWaveform, ih, List.replicate_succ, List.flatten_cons]

/-- Settles O48: the segments of the frame by its wire bits, the gap, and the repetitions one after the other. The name
`waveformOnce` is the model's function. -/
theorem waveformOnceAndRepeated : Obligations.WaveformOnce := by
  unfold Obligations.WaveformOnce
  intro c bytes
  refine ⟨?_, waveformOnce_length c bytes, txWaveform_eq_replicate c bytes⟩
  rw [waveformOnce_eq, frameSegments, List.append_assoc _ [_] [_]]
  rfl

/-- The segments of bits last as long as short bits, and longer by the difference for every long one (R161, R172). -/
theorem sum_bitSegments {c : Cfg} (h : c.shortHi ≤ c.longHi) (vs : List Bool) :
    ((vs.flatMap fun v => [(low, c.bitLo), (high, hiDur c v)]).map Prod.snd).sum =
      vs.length * (c.bitLo + c.shortHi) + vs.count c.longBit * (c.longHi - c.shortHi) := by
  induction vs with
  | nil => simp
  | cons v vs ih =>
    rw [List.flatMap_cons, List.map_append, List.sum_append, ih, List.length_cons, Nat.succ_mul]
    by_cases hv : v = c.longBit
    · have hbit : hiDur c v = c.longHi := if_pos hv
      rw [hbit, hv, List.count_cons_self, Nat.succ_mul]
      simp only [List.map_cons, List.map_nil, List.sum_cons, List.sum_nil]
      omega
    · have hbit : hiDur c v = c.shortHi := if_neg hv
      rw [hbit, List.count_cons_of_ne hv]
      simp only [List.map_cons, List.map_nil, List.sum_cons, List.sum_nil]
      omega

theorem wireBits_length (bytes : Bytes) : (wireBits bytes).length = 8 * bytes.length := by
  rw [wireBits_eq_map_frameBit, List.length_map, List.length_range]

/-- `dur_once` by the number of long bits (R172). -/
theorem durOnce_eq {c : Cfg} (h : c.shortHi ≤ c.longHi) (bytes : Bytes) :
    durOnce c bytes = c.startLo + c.startHi + 8 * bytes.length * (c.bitLo + c.shortHi) +
      (wireBits bytes).count c.longBit * (c.longHi - c.shortHi) + c.bitLo + c.frameGap := by
  have hbits := sum_bitSegments h (wireBits bytes)
  rw [wireBits_length] at hbits
  rw [durOnce, waveformOnce_eq, frameSegments]
  simp only [List.map_append, List.sum_append, hbits, List.map_cons, List.map_nil, List.sum_cons, List.sum_nil]
  omega

/-- No frame lasts longer than twelve bytes of long bits (R5 (g), R172). -/
theorem durOnce_le_worstBound {c : Cfg} (h : c.shortHi ≤ c.longHi) {bytes : Bytes} (hlen : bytes.length ≤ 12) :
    durOnce c bytes ≤ worstBound c := by
  have hcount : (wireBits bytes).count c.longBit ≤ 8 * bytes.length :=
    wireBits_length bytes ▸ List.count_le_length
  have hhalf : c.bitLo + c.longHi = (c.bitLo + c.shortHi) + (c.longHi - c.shortHi) := by omega
  have hshort : 8 * bytes.length * (c.bitLo + c.shortHi) ≤ 96 * (c.bitLo + c.shortHi) :=
    Nat.mul_le_mul_right _ (by omega)
  have hlong : (wireBits bytes).count c.longBit * (c.longHi - c.shortHi) ≤ 96 * (c.longHi - c.shortHi) :=
    Nat.mul_le_mul_right _ (by omega)
  rw [durOnce_eq h, worstBound, hhalf, Nat.mul_add 96]
  omega

/-- `N` repetitions last `N` times as long (R172). -/
theorem sum_txWaveform (c : Cfg) (bytes : Bytes) (n : Nat) :
    ((txWaveform c bytes n).map Prod.snd).sum = n * durOnce c bytes := by
  induction n with
  | zero => rw [Nat.zero_mul]; rfl
  | succ n ih => rw [txWaveform, List.map_append, List.sum_append, ih, Nat.succ_mul, Nat.add_comm, durOnce]

/-- Settles O49: each bit adds its half or the long one's, and R5 (g) bounds the longest frame. -/
theorem durationOnce : Obligations.DurationOnce := by
  unfold Obligations.DurationOnce
  intro c bytes n hwf hlen
  have w := cfgWf_parts hwf
  have hhalf : c.shortHi ≤ c.longHi := by omega
  have hbound := durOnce_le_worstBound hhalf (bytes := bytes) (by omega)
  exact ⟨durOnce_eq hhalf bytes, by omega, sum_txWaveform c bytes n⟩

end Sys2Proof.Machine

/-! ### Loop-back -/
namespace Sys2Proof.Machine
open Sys2Proof.Stated

/-- The waveform of a frame, as pulses, is the frame's train (R68, R164). -/
theorem map_pulseOf_waveformOnce (c : Cfg) (bytes : Bytes) :
    (waveformOnce c bytes).map pulseOf = frameTrain c bytes := by
  rw [waveformOnce_eq, frameTrain_eq_pulses, List.map_append]
  rfl

/-- A receiver at rest that has received these frames from the controller, at one time, since `s` (R128, R135). -/
structure Received (fs : List RawFrame) (s t : State) : Prop where
  resting : Resting t
  rxq : t.rxq = fs.foldl (enqList s.cfg.rxqDepth) s.rxq
  arb : t.arb = { s.arb with lastSeenController := some s.now }
  line : t.line = s.line
  now : t.now = s.now
  cfg : t.cfg = s.cfg

theorem Received.trans {fs gs : List RawFrame} {s t u : State} (h : Received fs s t) (k : Received gs t u) :
    Received (fs ++ gs) s u where
  resting := k.resting
  rxq := by rw [k.rxq, h.cfg, h.rxq, List.foldl_append]
  arb := by rw [k.arb, h.arb, h.now]
  line := k.line.trans h.line
  now := k.now.trans h.now
  cfg := k.cfg.trans h.cfg

/-- The train of a valid frame is received, and the receiver is at rest again (R68, R106, R128). -/
theorem received_frameTrain {s : State} (h : Resting s) {bytes : Bytes} (hlen : legalLen bytes.length = true)
    (hv : validSum bytes = true) :
    Received [⟨bytes, .controller, s.now⟩] s (feedTrain (frameTrain s.cfg bytes) s) := by
  have hinv := h.inv.feedTrain h.pin (frameTrain s.cfg bytes)
  rw [feedTrain_frameTrain h (le_of_legalLen hlen),
    completeOp_filled_of_some h.inv.dec.bufWf hlen (verdict_of_valid hv), finalizeOp_eq] at hinv ⊢
  exact ⟨⟨hinv, h.pin, h.receiving, rfl, rfl, h.drained⟩, rfl, rfl, rfl, rfl, rfl⟩

/-- Every repetition of the waveform is received (R164, R175). -/
theorem received_txWaveform {s : State} (h : Resting s) {bytes : Bytes} (hlen : legalLen bytes.length = true)
    (hv : validSum bytes = true) (n : Nat) :
    Received (List.replicate (n + 1) ⟨bytes, .controller, s.now⟩) s
      (feedTrain ((txWaveform s.cfg bytes (n + 1)).map pulseOf) s) := by
  induction n generalizing s with
  | zero =>
    have hone := received_frameTrain h hlen hv
    rwa [← map_pulseOf_waveformOnce, ← List.append_nil (waveformOnce s.cfg bytes)] at hone
  | succ n ih =>
    have hone := received_frameTrain h hlen hv
    have hrest := ih hone.resting
    rw [hone.now, hone.cfg] at hrest
    rw [txWaveform, List.map_append, feedTrain_append, map_pulseOf_waveformOnce]
    exact hone.trans hrest

/-- Settles O32: each repetition is a frame's train, fed to a receiver that the one before left at rest. -/
theorem loopBack : Obligations.LoopBack := by
  unfold Obligations.LoopBack
  intro s bytes n h hlen hv
  refine ⟨_, runAll_fed h.pin _, ?_⟩
  cases n with
  | zero => exact ⟨rfl, fun hn => absurd hn (by decide), h.drained, h.idle, h.phase, rfl, rfl⟩
  | succ n =>
    have hall := received_txWaveform h hlen hv n
    exact ⟨hall.rxq, fun _ => hall.arb, hall.resting.drained, hall.resting.idle, hall.resting.phase, hall.line, hall.now⟩

end Sys2Proof.Machine

/-! ### The sequencer's rows -/
namespace Sys2Proof.Machine
open Sys2Proof.Stated

theorem exec_txBegin_of_allowed {s : State} {c : RawFrame} (hm : s.arb.mode = .receiving) (hmay : mayTransmit s = true)
    (hc : commandOk c = true) : exec (.txBegin c) s = .next (txBeginOp c s) :=
  if_pos (by simp [isReceiving, hm, hmay, hc])

theorem exec_txSeg_of_due {s : State} (hdue : atDeadline s = true) (hmore : atLastSegment s = false) :
    exec .txSeg s = .next (txSegOp s) := if_pos (by rw [hdue, hmore]; rfl)

theorem exec_txEnd_of_due {s : State} (hdue : atDeadline s = true) (hlast : atLastSegment s = true) :
    exec .txEnd s = .next (txEndOp s) := if_pos (by rw [hdue, hlast]; rfl)

/-- The level of a driven line that nobody else pulls low is the block's (R31). -/
theorem relevel_of_driven {s : State} (hd : s.line.dir = .output) (he : s.line.ext = high) :
    relevel s = { s with line := { s.line with level := s.line.out } } := by simp [relevel, hd, he]

/-- The falling edge with which a transmission begins on a quiet line is captured (R80, R81, R167). -/
theorem txBeginOp_of_quiet {s : State} (c : RawFrame) (hp : s.cfg.pinConfigured = true) (he : s.line.ext = high)
    (hl : s.line.level = high) (hcap : s.cap.lastLevel = high) (hroom : s.pq.length ≠ s.cfg.pqDepth) :
    txBeginOp c s = { raise (.txStart c) (takeLine c s) with
      line := { (takeLine c s).line with level := low }
      cap := ⟨low, s.now⟩
      pq := s.pq ++ [⟨high, sat32 (s.now - s.cap.lastEdge)⟩]
      out := { (raise (.txStart c) (takeLine c s)).out with wakes := s.out.wakes + 1 } } := by
  have hrel := relevel_of_driven (s := raise (.txStart c) (takeLine c s)) rfl he
  have hdrop : dropEvents .pq (raise (.txStart c) (takeLine c s)) = [] := by
    have hfull : queueFull .pq (raise (.txStart c) (takeLine c s)) = false := queueFull_pq_eq_false.mpr hroom
    rw [dropEvents, hfull]
    rfl
  rw [txBeginOp, settleLine_of_edge, hrel, hdrop, List.append_nil]
  · simp [enqList_of_room _ hroom, hcap]
  · rw [hrel]
    simp [hl]
  · rw [hrel]
    simp [hcap]
  · exact hp

/-- Settles O45: `txBeginOp` writes these registers and the line settles; on a quiet line with room it captures the edge. -/
theorem txBegin : Obligations.TxBegin := by
  unfold Obligations.TxBegin
  intro c s hm hp ha hallowed hc taken
  have hrow := exec_txBegin_of_allowed hm (mayTransmit_iff.mpr ⟨hp, ha, hallowed⟩) hc
  refine ⟨rfl, hrow, fun he hl hcap hroom => ?_⟩
  rw [hrow, txBeginOp_of_quiet c hp he hl hcap hroom.ne]
  rfl

/-- `TX_SEG` inside a repetition drives its next segment (R169). -/
theorem nextSeq_of_inside {q : Seq} (h : q.pos < lastSeg q.frame.bytes) : nextSeq q = { q with pos := q.pos + 1 } :=
  if_pos h

/-- `TX_SEG` at the end of a repetition begins the next one (R169). -/
theorem nextSeq_of_end {q : Seq} (h : q.pos = lastSeg q.frame.bytes) :
    nextSeq q = { q with pos := 0, rep := q.rep + 1 } := if_neg (by omega)

/-- Settles O46: the boundary is due and not the last, and `SEQ` moves as `nextSeq` says. -/
theorem txSeg : Obligations.TxSeg := by
  unfold Obligations.TxSeg
  intro s hm hnow bytes last drive
  have hdue : atDeadline s = true := atDeadline_iff.mpr ⟨hm, hnow⟩
  refine ⟨fun hpos => ?_, fun hpos hrep => ?_⟩
  · rw [exec_txSeg_of_due hdue (atLastSegment_eq_false.mpr (.inl hpos.ne)), txSegOp, nextSeq_of_inside hpos]
    rfl
  · rw [exec_txSeg_of_due hdue (atLastSegment_eq_false.mpr (.inr hrep)), txSegOp, nextSeq_of_end hpos]
    rfl

/-- Settles O47: the boundary is due and the last, and `TX_END` is `txEndOp_eq`. -/
theorem txEnd : Obligations.TxEnd := by
  unfold Obligations.TxEnd
  intro s hm hnow hpos hrep
  rw [exec_txEnd_of_due (atDeadline_iff.mpr ⟨hm, hnow⟩) (atLastSegment_iff.mpr ⟨hpos, hrep⟩), txEndOp_eq]

end Sys2Proof.Machine

/-! ### The segments still to be driven -/
namespace Sys2Proof.Machine
open Sys2Proof.Stated

/-- The segments of a transmission from the one in progress on: the rest of this repetition, and the others (R164). -/
def remaining (c : Cfg) (q : Seq) : List (Level × Nat) :=
  (waveformOnce c q.frame.bytes).drop q.pos ++ txWaveform c q.frame.bytes (c.repeatCount - (q.rep + 1))

theorem drop_waveformOnce (c : Cfg) {bytes : Bytes} {p : Nat} (h : p ≤ lastSeg bytes) :
    (waveformOnce c bytes).drop p = seg c bytes p :: (waveformOnce c bytes).drop (p + 1) := by
  rw [List.drop_eq_getElem_cons (by rw [waveformOnce_length]; unfold lastSeg at h; omega)]
  simp [waveformOnce]

theorem drop_waveformOnce_end (c : Cfg) (bytes : Bytes) : (waveformOnce c bytes).drop (lastSeg bytes + 1) = [] :=
  List.drop_eq_nil_of_le (waveformOnce_length c bytes).le

/-- A transmission begins with all its segments ahead (R164). -/
theorem remaining_of_start {c : Cfg} (h : 1 ≤ c.repeatCount) (f : RawFrame) (deadline : Nat) :
    remaining c ⟨f, 0, 0, deadline⟩ = txWaveform c f.bytes c.repeatCount := by
  obtain ⟨n, hn⟩ := Nat.exists_eq_add_of_le' h
  rw [remaining, hn]
  rfl

/-- The segment in progress is the first of those that remain (R164). -/
theorem remaining_ne_nil (c : Cfg) {q : Seq} (h : q.pos ≤ lastSeg q.frame.bytes) : remaining c q ≠ [] := by
  rw [remaining, drop_waveformOnce c h]
  exact List.cons_ne_nil _ _

/-- Behind a boundary that is not the end the segments of the next `SEQ` remain (R166, R169). -/
theorem remaining_of_more {c : Cfg} {q : Seq} (hpos : q.pos ≤ lastSeg q.frame.bytes) (hrep : q.rep < c.repeatCount)
    (hmore : q.pos ≠ lastSeg q.frame.bytes ∨ q.rep + 1 ≠ c.repeatCount) :
    remaining c q = seg c q.frame.bytes q.pos :: remaining c (nextSeq q) := by
  rw [remaining, drop_waveformOnce c hpos, List.cons_append]
  by_cases hend : q.pos = lastSeg q.frame.bytes
  · have hreps : c.repeatCount - (q.rep + 1) = c.repeatCount - (q.rep + 1 + 1) + 1 := by omega
    rw [nextSeq_of_end hend, hend, drop_waveformOnce_end, hreps]
    rfl
  · rw [nextSeq_of_inside (by omega)]
    rfl

/-- At the end of the transmission the segment in progress is the last (R171). -/
theorem remaining_of_last {c : Cfg} {q : Seq} (hpos : q.pos = lastSeg q.frame.bytes) (hrep : q.rep + 1 = c.repeatCount) :
    remaining c q = [seg c q.frame.bytes q.pos] := by
  rw [remaining, drop_waveformOnce c hpos.le, hpos, drop_waveformOnce_end, ← hrep, Nat.sub_self]
  rfl

/-- Every segment lasts (R5, R164). -/
theorem seg_pos {c : Cfg} (h : cfgWf c = true) {bytes : Bytes} {p : Nat} (hp : p ≤ lastSeg bytes) :
    0 < (seg c bytes p).2 := by
  have w := cfgWf_parts h
  have hmem : seg c bytes p ∈ waveformOnce c bytes :=
    List.mem_map_of_mem (List.mem_range.mpr (Nat.lt_succ_of_le hp))
  rw [waveformOnce_eq, List.mem_append, List.mem_singleton] at hmem
  rcases hmem with hframe | hgap
  · exact frameSegments_pos h _ hframe
  · rw [hgap]
    dsimp only
    omega

/-- The last segment is the gap, on a high line (R163, R164). -/
theorem seg_last (c : Cfg) (bytes : Bytes) : seg c bytes (lastSeg bytes) = (high, c.frameGap) := by
  obtain ⟨-, hgap⟩ := seg_of_spacing c bytes
  have hidx : lastSeg bytes = 2 + 2 * (8 * bytes.length) + 1 := by rw [lastSeg]; omega
  rw [hidx, hgap]

end Sys2Proof.Machine

/-! ### A whole transmission -/
namespace Sys2Proof.Machine
open Sys2Proof.Stated

/-- What the segment boundaries of a transmission leave as it was, on a line nobody else pulls low (R52 (e), R169). -/
structure Underway (s t : State) : Prop where
  dec : t.dec = s.dec
  arb : t.arb = s.arb
  txq : t.txq = s.txq
  rxq : t.rxq = s.rxq
  ext : t.line.ext = s.line.ext
  draws : t.line.draws = s.line.draws
  cfg : t.cfg = s.cfg

theorem Underway.trans {s t u : State} (h : Underway s t) (k : Underway t u) : Underway s u where
  dec := k.dec.trans h.dec
  arb := k.arb.trans h.arb
  txq := k.txq.trans h.txq
  rxq := k.rxq.trans h.rxq
  ext := k.ext.trans h.ext
  draws := k.draws.trans h.draws
  cfg := k.cfg.trans h.cfg

/-- A driven line that nobody else pulls low settles without a draw (R31). -/
theorem settleLine_underway {s : State} (hd : s.line.dir = .output) (he : s.line.ext = high) :
    Underway s (settleLine s) :=
  have hf := settleLine_lineFrame s
  { dec := hf.dec
    arb := hf.arb
    txq := hf.txq
    rxq := hf.rxq
    ext := hf.ext
    draws := by rw [settleLine_line, relevel_of_driven hd he]
    cfg := hf.cfg }

/-- What a boundary inside the transmission does: the next segment is driven, from now on (R165, R169). -/
structure NextSegment (s t : State) : Prop where
  underway : Underway s t
  seq : t.seq = { nextSeq s.seq with deadline := s.now + (seg s.cfg s.seq.frame.bytes (nextSeq s.seq).pos).2 }
  now : t.now = s.now
  wave : t.out.wave = s.out.wave ++ stamped s.now [seg s.cfg s.seq.frame.bytes (nextSeq s.seq).pos]

theorem txSegOp_nextSegment {s : State} (hd : s.line.dir = .output) (he : s.line.ext = high) :
    NextSegment s (txSegOp s) := by
  have hf : LineFrame _ (txSegOp s) := settleLine_lineFrame _
  have hu : Underway _ (txSegOp s) := settleLine_underway hd he
  refine ⟨⟨hu.dec, hu.arb, hu.txq, hu.rxq, hu.ext, hu.draws, hu.cfg⟩, hf.seq.trans ?_, hf.now, hf.wave.trans ?_⟩
  · rw [nextSeq_frame]
    rfl
  · rw [nextSeq_frame]
    rfl

/-- Transmitting on a line nobody else pulls low, at the start of a segment, with these segments to drive (R165, R167). -/
structure Sending (gs : List (Level × Nat)) (s : State) : Prop where
  inv : BlockInv s
  mode : s.arb.mode = .transmitting
  quiet : s.line.ext = high
  todo : remaining s.cfg s.seq = gs
  due : s.seq.deadline = s.now + (seg s.cfg s.seq.frame.bytes s.seq.pos).2

theorem Sending.head {g : Level × Nat} {gs : List (Level × Nat)} {s : State} (h : Sending (g :: gs) s) :
    seg s.cfg s.seq.frame.bytes s.seq.pos = g := by
  have htodo := h.todo
  rw [remaining, drop_waveformOnce _ (h.inv.seq h.mode).pos_le] at htodo
  exact (List.cons.inj htodo).1

/-- The segment in progress lasts up to its boundary (R83, R168). -/
theorem Sending.exec_tick {g : Level × Nat} {gs : List (Level × Nat)} {s : State} (h : Sending (g :: gs) s)
    (hrange : s.now + g.2 ≤ timeMax) :
    exec (.tick g.2) s = .next { s with now := s.now + g.2 } ∧ BlockInv { s with now := s.now + g.2 } ∧
      atDeadline { s with now := s.now + g.2 } = true := by
  have hpos := seg_pos h.inv.cfg (h.inv.seq h.mode).pos_le
  have hdue := h.due
  rw [h.head] at hpos hdue
  have hen : tickEnabled g.2 s = true := by simp [tickEnabled, hpos, hdue]
  exact ⟨(if_pos hen).trans (if_pos hrange), h.inv.tick hen hrange, atDeadline_iff.mpr ⟨h.mode, hdue.symm⟩⟩

/-- The end of the transmission is where one segment remains (R171). -/
theorem Sending.atLastSegment_iff {g : Level × Nat} {gs : List (Level × Nat)} {s : State} (h : Sending (g :: gs) s) :
    atLastSegment s = true ↔ gs = [] := by
  have hseq := h.inv.seq h.mode
  have htodo := h.todo
  constructor
  · intro hlast
    obtain ⟨hpos, hrep⟩ := Machine.atLastSegment_iff.mp hlast
    rw [remaining_of_last hpos hrep] at htodo
    exact (List.cons.inj htodo).2.symm
  · intro hnil
    by_contra hmore
    replace hmore := atLastSegment_eq_false.mp (Bool.eq_false_of_not_eq_true hmore)
    rw [remaining_of_more hseq.pos_le hseq.rep_lt hmore] at htodo
    have hnext := (nextSeq_inside hseq.rep_lt hseq.pos_le hmore).2
    rw [← nextSeq_frame s.seq] at hnext
    exact remaining_ne_nil s.cfg hnext ((List.cons.inj htodo).2.trans hnil)

/-- Segments have been driven since the first of them began in `s`, and the last of them is at its end (R165). -/
structure Drove (gs : List (Level × Nat)) (s t : State) : Prop where
  underway : Underway s t
  now : t.now = s.now + (gs.map Prod.snd).sum
  wave : t.out.wave = s.out.wave ++ (stamped s.now gs).tail

theorem Drove.one (g : Level × Nat) (s : State) : Drove [g] s { s with now := s.now + g.2 } :=
  ⟨⟨rfl, rfl, rfl, rfl, rfl, rfl, rfl⟩, by simp, (List.append_nil _).symm⟩

/-- One boundary inside the transmission: the segment ends and the next one begins (R166, R169). -/
theorem Sending.runAll_segment {g g' : Level × Nat} {gs : List (Level × Nat)} {s : State}
    (h : Sending (g :: g' :: gs) s) (hrange : s.now + g.2 ≤ timeMax) (is : List Instr) :
    ∃ t, runAll (.tick g.2 :: .txSeg :: is) s = runAll is t ∧ Sending (g' :: gs) t ∧ Underway s t ∧
      t.now = s.now + g.2 ∧ t.out.wave = s.out.wave ++ [⟨g'.1, t.now, t.now + g'.2⟩] := by
  obtain ⟨htick, hinv, hdue⟩ := h.exec_tick hrange
  have hmore : atLastSegment s = false := by
    rw [← Bool.not_eq_true, h.atLastSegment_iff]
    exact List.cons_ne_nil _ _
  have hseq := h.inv.seq h.mode
  have hnext := txSegOp_nextSegment (s := { s with now := s.now + g.2 }) (h.inv.line.transmitting_output h.mode) h.quiet
  have hu : Underway s (txSegOp { s with now := s.now + g.2 }) := (Drove.one g s).underway.trans hnext.underway
  have hsend : Sending (g' :: gs) (txSegOp { s with now := s.now + g.2 }) := by
    have htodo := h.todo
    rw [remaining_of_more hseq.pos_le hseq.rep_lt (atLastSegment_eq_false.mp hmore)] at htodo
    refine ⟨hinv.txSegOp h.mode hmore, ?_, ?_, ?_, ?_⟩
    · rw [hu.arb, h.mode]
    · rw [hu.ext, h.quiet]
    · rw [hu.cfg, hnext.seq]
      exact (List.cons.inj htodo).2
    · rw [hu.cfg, hnext.seq, hnext.now]
      simp
  have hhead := hsend.head
  rw [hu.cfg, hnext.seq] at hhead
  simp only [nextSeq_frame] at hhead
  refine ⟨_, ?_, hsend, hu, hnext.now, ?_⟩
  · rw [runAll_cons htick, runAll_cons (exec_txSeg_of_due hdue hmore)]
  · rw [hnext.wave, hnext.now]
    simp only [hhead]
    rfl

/-- The boundary steps of a transmission: its segments are driven one after the other, and the line is released at the end
of the last (R165, R166, R171). -/
theorem Sending.runAll_boundaries {gs : List (Level × Nat)} {s : State} (h : Sending gs s)
    (hrange : s.now + (gs.map Prod.snd).sum ≤ timeMax) :
    ∃ t, runAll (boundaries (gs.map Prod.snd)) s = .next (txEndOp t) ∧ Drove gs s t ∧ t.line.out = high := by
  induction gs generalizing s with
  | nil => exact absurd h.todo (remaining_ne_nil s.cfg (h.inv.seq h.mode).pos_le)
  | cons g gs ih =>
    rw [List.map_cons, List.sum_cons, ← Nat.add_assoc] at hrange
    cases gs with
    | nil =>
      obtain ⟨htick, -, hdue⟩ := h.exec_tick (by omega)
      have hlast : atLastSegment s = true := h.atLastSegment_iff.mpr rfl
      refine ⟨_, ?_, Drove.one g s, ?_⟩
      · exact (runAll_cons htick).trans (runAll_cons (exec_txEnd_of_due hdue hlast))
      · change s.line.out = high
        rw [(h.inv.seq h.mode).out_eq, (Machine.atLastSegment_iff.mp hlast).1]
        exact congrArg Prod.fst (seg_last _ _)
    | cons g' gs =>
      obtain ⟨t, hrun, hsend, hu, hnow, hwave⟩ :=
        h.runAll_segment (by omega) (boundaries ((g' :: gs).map Prod.snd))
      obtain ⟨u, hrun', hdrove, hout⟩ := ih hsend (by rwa [hnow])
      refine ⟨u, hrun.trans hrun', ⟨hu.trans hdrove.underway, ?_, ?_⟩, hout⟩
      · rw [hdrove.now, hnow, Nat.add_assoc]
        rfl
      · rw [hdrove.wave, hwave, hnow, List.append_assoc]
        rfl

/-- A scheduling pass that may transmit on a quiet line begins to send its command (R143, R167). -/
structure Begun (c : RawFrame) (rest : List RawFrame) (s t : State) : Prop where
  sending : Sending (txWaveform s.cfg c.bytes s.cfg.repeatCount) t
  underway : Underway { s with txq := rest, arb := { s.arb with mode := .transmitting } } t
  now : t.now = s.now
  wave : t.out.wave = s.out.wave ++ [⟨low, s.now, s.now + s.cfg.startLo⟩]

theorem exec_txSched_begun {s : State} {c : RawFrame} {rest : List RawFrame} (hi : BlockInv s)
    (hm : s.arb.mode = .receiving) (hq : s.txq = c :: rest) (hp : s.cfg.pinConfigured = true)
    (ha : s.arb.passive = false) (hallowed : txAllowed s = true) (he : s.line.ext = high) :
    ∃ t, exec .txSched s = .next t ∧ Begun c rest s t := by
  obtain ⟨-, -, -, -, -, -, -, hrepeat, -⟩ := cfgWf_parts hi.cfg
  have hrow := exec_txSched_of_command hm hq
  rw [schedPass_of_allowed c hp ha hallowed, dropHead_txq_of_cons hq] at hrow
  have hf := txBeginOp_lineFrame c { s with txq := rest }
  have hu : Underway _ (txBeginOp c { s with txq := rest }) := settleLine_underway rfl he
  have hsend : Sending (txWaveform s.cfg c.bytes s.cfg.repeatCount) (txBeginOp c { s with txq := rest }) := by
    refine ⟨(hi.exec .txSched).of_next hrow, ?_, hu.ext.trans he, ?_, ?_⟩
    · rw [hf.arb]
      rfl
    · rw [hf.cfg, hf.seq]
      exact remaining_of_start hrepeat c _
    · rw [hf.cfg, hf.seq, hf.now]
      rfl
  exact ⟨_, hrow, hsend, ⟨hu.dec, hu.arb, hu.txq, hu.rxq, hu.ext, hu.draws, hu.cfg⟩, hf.now, hf.wave⟩

/-- A decoder at rest is as `TX_END` leaves it, but for the phase (R18, R171). -/
theorem BlockInv.dec_of_idle {s : State} (hi : BlockInv s) (h : s.dec.state = .idle) :
    { s.dec with state := .idle, phase := .phNone, nbytes := 0, nbits := 0, cur := 0 } =
      { s.dec with phase := .phNone } := by
  obtain ⟨hbytes, hbits, hcur, -⟩ := hi.dec.idle_empty h
  simp only [hbytes, hbits, hcur, h]

/-- The first segment of a transmission is the marker's low half (R164). -/
theorem stamped_txWaveform (c : Cfg) (bytes : Bytes) {n : Nat} (h : 1 ≤ n) (t : Nat) :
    stamped t (txWaveform c bytes n) = ⟨low, t, t + c.startLo⟩ :: (stamped t (txWaveform c bytes n)).tail := by
  obtain ⟨m, rfl⟩ := Nat.exists_eq_add_of_le' h
  rw [txWaveform, waveformOnce_eq]
  rfl

/-- Settles O50: the pass begins to send, the boundaries drive the waveforms, and `TX_END` releases the line. -/
theorem wholeTransmission : Obligations.WholeTransmission := by
  unfold Obligations.WholeTransmission
  intro s c rest hi hm hq hp ha hallowed he hrange
  obtain ⟨-, -, -, -, -, -, -, hrepeat, -⟩ := cfgWf_parts hi.cfg
  obtain ⟨t, hsched, hbegun⟩ := exec_txSched_begun hi hm hq hp ha hallowed he
  have hsum := sum_txWaveform s.cfg c.bytes s.cfg.repeatCount
  obtain ⟨u, hrun, hdrove, hout⟩ := hbegun.sending.runAll_boundaries (by rwa [hbegun.now, hsum])
  have hu := hbegun.underway.trans hdrove.underway
  have hnow : u.now = s.now + s.cfg.repeatCount * durOnce s.cfg c.bytes := by rw [hdrove.now, hbegun.now, hsum]
  refine ⟨txEndOp u, (runAll_cons hsched).trans hrun, hnow, ?_, ?_, hu.txq, hu.rxq, rfl, ?_, ?_, ?_⟩
  · change u.out.wave = _
    rw [hdrove.wave, hbegun.wave, hbegun.now, stamped_txWaveform s.cfg c.bytes hrepeat, List.append_assoc]
    rfl
  · change { u.arb with mode := .receiving, lastLocalTx := some u.now } = { s.arb with lastLocalTx := some u.now }
    rw [hu.arb, ← hm]
  · change Cap.mk u.line.ext u.now = ⟨high, u.now⟩
    rw [hu.ext]
    exact congrArg (Cap.mk · u.now) he
  · have hdir := hi.line.receiving_input hm
    have hlevel := hi.line.level_input hdir
    change { u.line with dir := .input, level := u.line.ext } = { s.line with out := high }
    simp only [hout, hu.ext, hu.draws, hdir, hlevel]
  · change { u.dec with state := .idle, phase := .phNone, nbytes := 0, nbits := 0, cur := 0 } = _
    rw [hu.dec]
    exact hi.dec_of_idle (hi.idle_of_txAllowed hallowed)

end Sys2Proof.Machine

/-! ## Proofs: 45_host_ops.md -/

/-! ### The host's commands and frames -/
namespace Sys2Proof.Machine

theorem exec_hostCmd_of_legal {bytes : Bytes} (h : legalLen bytes.length = true) (s : State) :
    exec (.hostCmd bytes) s = .next (enqCommand ⟨bytes, .loc, s.now⟩ s) := if_pos h

/-- Settles O51: at a legal length the row is `enq(TXQ, f)`, and `HOST_CMD` has no other condition. -/
theorem hostCommand : Obligations.HostCommand := by
  unfold Obligations.HostCommand
  refine fun bytes s => ⟨fun hlen => ?_, fun h9 h12 => if_neg (not_legalLen h9 h12)⟩
  rw [exec_hostCmd_of_legal (legalLen_iff.mpr hlen), enqCommand_eq, dropEvents_txq, enqList]

/-- A frame `RXQ` may hold, in the words of R12 and R27. -/
theorem receivedOk_iff {f : RawFrame} :
    receivedOk f = true ↔ (f.bytes.length = 9 ∨ f.bytes.length = 12) ∧ validSum f.bytes = true ∧
      (f.source = .heater ∨ f.source = .controller) := by
  rw [receivedOk, Bool.and_eq_true, Bool.and_eq_true, Bool.or_eq_true, legalLen_iff, beq_iff_eq, beq_iff_eq,
    and_assoc, and_comm (b := validSum f.bytes = true)]

theorem BlockInv.receivedOk_of_mem {s : State} (hi : BlockInv s) {f : RawFrame} (h : f ∈ s.rxq) :
    receivedOk f = true := List.all_eq_true.mp hi.queue.received f h

/-- `HOST_RX_WAIT` that does not block is `HOST_RX_POP` (R182, R183). -/
theorem exec_hostRxWait_eq_pop {cancel : Bool} {s : State} (h : s.rxq ≠ [] ∨ cancel = true) :
    exec (.hostRxWait cancel) s = exec .hostRxPop s := by
  rcases h with hne | rfl
  · exact if_neg (by simp [hne])
  · exact if_neg (by simp [cancelled])

theorem exec_hostRxPop_cons {f : RawFrame} {rest : List RawFrame} {s : State} (h : s.rxq = f :: rest) :
    exec .hostRxPop s = .next (answer (.frame (some f))
      { s with rxq := rest, out := { s.out with taken := s.out.taken ++ [f] } }) := by
  obtain ⟨-, hdrop⟩ := peek_and_drop_rxq_cons h
  change Host.Outcome.next (answer (.frame s.rxq.head?) (dropHead .rxq s)) = _
  rw [hdrop, h, List.head?_cons]

theorem dropHead_rxq_of_empty {s : State} (h : s.rxq = []) : dropHead .rxq s = s := by
  simp only [dropHead, h, List.tail_nil, List.head?_nil, Option.toList_none, List.append_nil]
  rw [← h]

theorem exec_hostRxPop_of_empty {s : State} (h : s.rxq = []) :
    exec .hostRxPop s = .next (answer (.frame none) s) := by
  change Host.Outcome.next (answer (.frame s.rxq.head?) (dropHead .rxq s)) = _
  rw [dropHead_rxq_of_empty h, h, List.head?_nil]

/-- Settles O52: both rows pop, and the popped frame is as `BlockInv` says of every frame in `RXQ`. -/
theorem hostFetch : Obligations.HostFetch := by
  unfold Obligations.HostFetch
  refine fun s cancel => ⟨fun f rest hq => ?_, fun hq => ?_⟩
  · have hpop := exec_hostRxPop_cons hq
    have hwait : exec (.hostRxWait cancel) s = exec .hostRxPop s := exec_hostRxWait_eq_pop (.inl (by simp [hq]))
    have hmem : f ∈ s.rxq := by simp [hq]
    exact ⟨hpop, hwait.trans hpop, fun hi => receivedOk_iff.mp (hi.receivedOk_of_mem hmem)⟩
  · have hpop := exec_hostRxPop_of_empty hq
    exact ⟨hpop, (exec_hostRxWait_eq_pop (.inr rfl)).trans hpop⟩

end Sys2Proof.Machine

/-! ## Proofs: 60_exceptions.md -/

/-! ### The error rows where their cause holds

One lemma per row, next to the row's lemma for where it waits: the row runs where its flag of Machine/Flags.lean is true. -/
namespace Sys2Proof.Machine

theorem starves_iff {s : State} :
    starves s = true ↔ s.arb.mode = .receiving ∧ s.txq ≠ [] ∧ s.cfg.pinConfigured = true ∧ s.arb.passive = false ∧
      txAllowed s = false := by
  simp [starves, schedEnabled, isReceiving, and_assoc]

theorem exec_eChecksum_of_invalid {cause : EndCause} {s : State} (h : inFlight s = true) (hw : wholeFrame s = true)
    (hv : verdict (candidate s) = none) :
    exec (.eChecksum cause) s = .next (afterFrame cause (raise (.checksum (candidate s)) s)) :=
  if_pos (by rw [h, hw, hv]; rfl)

theorem exec_eLength_of_not_whole {cause : EndCause} {s : State} (h : inFlight s = true) (hw : ¬ wholeFrame s = true) :
    exec (.eLength cause) s = .next (afterFrame cause (raise (.length s.dec.nbytes s.dec.nbits) s)) :=
  if_pos (by rw [h, Bool.eq_false_of_not_eq_true hw]; rfl)

theorem exec_eOverflow_of_full {s : State} (h : inFlight s = true) (hfull : s.dec.nbytes = 12) :
    exec .eOverflow s = .next (resetIdle (raise .overflow s)) :=
  if_pos (by rw [h, hfull]; rfl)

theorem exec_eStarved_of_starves {s : State} (h : starves s = true) :
    exec .eStarved s = .next (raise (starvedEvent s) s) := if_pos h

theorem exec_eConfig_of_unreported {s : State} (hp : s.cfg.pinConfigured = false) (he : s.arb.cfgErr = false) :
    exec .eConfig s = .next (raise .config { s with arb := { s.arb with cfgErr := true } }) :=
  if_pos (by rw [hp, he]; rfl)

theorem exec_eQdrop_of_full {q : QueueId} {s : State} (h : queueFull q s = true) :
    exec (.eQdrop q) s = .next (raise (.qdrop q) s) := if_pos h

/-- Settles O56: in each clause the cause makes the row's flag true, and the recovery is written out. -/
theorem errorRows : Obligations.ErrorRows := by
  unfold Obligations.ErrorRows
  intro cause s after
  have hafter (ev : Event) : afterFrame cause (raise ev s) = after ev := by cases cause <;> rfl
  refine ⟨fun hm hs => ?_, fun hm hq hp ha hn => ?_, exec_eConfig_of_unreported, rfl,
    fun hfull => exec_eQdrop_of_full (beq_iff_eq.mpr hfull), fun hfull => exec_eQdrop_of_full (beq_iff_eq.mpr hfull),
    fun hfull => exec_eQdrop_of_full (beq_iff_eq.mpr hfull)⟩
  · have hin : inFlight s = true := inFlight_iff.mpr ⟨hm, hs⟩
    refine ⟨fun hlen hbits hv hc => ?_, fun hother => ?_, exec_eOverflow_of_full hin⟩
    · rw [← hafter, exec_eChecksum_of_invalid hin (wholeFrame_iff.mpr ⟨hlen, hbits⟩) (verdict_of_invalid hv hc)]
    · rw [← hafter, exec_eLength_of_not_whole hin (mt wholeFrame_iff.mp hother)]
  · rw [← starvedEvent_eq, exec_eStarved_of_starves (starves_iff.mpr ⟨hm, hq, hp, ha, hn⟩)]
    rfl

end Sys2Proof.Machine

/-! ### The informational rows and the codes -/
namespace Sys2Proof.Machine

/-- The informational rows have no condition and no recovery: each is `log(ev)` (R195). -/
theorem exec_informationalRows (src : Source) (len : Nat) (f : RawFrame) (s : State) :
    exec (.frameOk src len) s = .next (raise (.frameOk src len) s) ∧
    exec (.txStart f) s = .next (raise (.txStart f) s) ∧
    exec (.txDone f) s = .next (raise (.txDone f) s) ∧
    exec (.cmdDropped f) s = .next (raise (.cmdDropped f) s) := ⟨rfl, rfl, rfl, rfl⟩

/-- Settles O57: the codes are read off `eventCode`, one constructor at a time, and each row is its `raise`. -/
theorem informationalRowsAndCodes : Obligations.InformationalRowsAndCodes := by
  unfold Obligations.InformationalRowsAndCodes
  exact ⟨fun _ _ => rfl, fun _ => rfl, fun _ _ => rfl, rfl, fun _ _ _ => rfl, rfl, rfl, fun _ => rfl, fun _ _ => rfl,
    fun _ => rfl, fun _ => rfl, fun _ => rfl, exec_informationalRows⟩

end Sys2Proof.Machine
